-- ==== Sys2Proof/Word.lean ====
section
/-! DEFINITION. The word types: masks, frames, and the interface words of the five formats (30_encoding.md R40). -/

namespace Sys2Proof

/-- An 8-bit segment mask or digit-select mask (`SEG_BITS`, `SEL_BITS`: R6). Bit 0 is the least significant (R7). -/
abbrev Byte := BitVec 8

/-- A 16-bit frame (`FRAME_BITS`: R6); bits 15..8 the segment mask, bits 7..0 the digit-select mask (R33). -/
abbrev Frame := BitVec 16

/-- `g ‖ e`: the frame of a segment mask and a digit-select mask (R33, R62). -/
abbrev mkFrame (g e : Byte) : Frame := g ++ e

/-- One word presented at an interface of the block, of one of the five formats (R40 to R45), each of its own fixed
width (R48). `noFormat` stands for bits that fit none of them: no interface takes such a word (log 11). -/
inductive InWord where
  /-- `F_SEGIN`, 5 bits (R41). -/
  | segIn (w : BitVec 5)
  /-- `F_SELIN`, 2 bits (R42). -/
  | selIn (w : BitVec 2)
  /-- `F_COMPOSE`, 17 bits (R43). -/
  | compose (w : BitVec 17)
  /-- `F_FRAME`, 16 bits (R44). -/
  | frame (w : BitVec 16)
  /-- `F_EVENT`, 30 bits (R45). -/
  | event (w : BitVec 30)
  /-- Bits of no format of the spec (log 11). -/
  | noFormat (nbits w : Nat)
  deriving DecidableEq, Repr

end Sys2Proof
end

