-- ==== Sys2Proof/Syntax.lean ====
section
/-! DEFINITION. The operations: one constructor of `Instr` per row of spec/opcode_table.json. -/

namespace Sys2Proof

/-- DisplayMode (R23): TIME is encoded as 0 and VOLTAGE as 1 (decision D6). -/
inductive Mode where
  | time
  | voltage
  deriving DecidableEq, Repr

/-- One operation of the block (R40). The first five are used on their own, outside an event trace (R49);
`step`, `tick` and `reset` are the events of the step relation (R24, R45). -/
inductive Instr where
  /-- SEGENC d, p: digit `d` and decimal-point enable `p` (R41, R53). -/
  | segenc (d : BitVec 4) (p : Bool)
  /-- DIGSEL p: digit position `p` (R42, R61). -/
  | digsel (p : BitVec 2)
  /-- COMPOSE TIME, s, v: slot `s`, elapsed seconds `v` (R43, R54). -/
  | composeTime (s : BitVec 2) (v : BitVec 14)
  /-- COMPOSE VOLT, s, v: slot `s`, millivolts `v` (R43, R55). -/
  | composeVolt (s : BitVec 2) (v : BitVec 14)
  /-- SHIFTOUT g, e: segment mask `g`, digit-select mask `e` (R44, R64). -/
  | shiftout (g e : Byte)
  /-- STEP with its input snapshot: `MODE`, `T` and `MV` (R45, R75). -/
  | step (m : Mode) (t : BitVec 13) (v : BitVec 14)
  /-- TICK, the 2 ms refresh request (R45, R74). -/
  | tick
  /-- RESET, the block's own initialisation (R45, R120). -/
  | reset
  deriving DecidableEq, Repr

end Sys2Proof
end

