-- ==== Sys2Proof/Decode.lean ====
section
/-! DEFINITION. The decoder of the five formats (30_encoding.md R41 to R48), the encoder, and the reading of a
table word. -/

namespace Sys2Proof

/-- Why a word has no meaning (R47). -/
inductive DecodeError where
  /-- `F_EVENT` with kind 11: reserved (R47). -/
  | reservedKind
  /-- `F_EVENT` `TICK` or `RESET` with a nonzero payload: reserved (R47). -/
  | reservedPayload
  /-- Bits that fit none of the five formats (R48; log 11). -/
  | noFormat
  deriving DecidableEq, Repr

/-- What the decoder answers: an operation, or the name of the reason there is none. -/
inductive Decoded where
  | ok (i : Instr)
  | rejected (e : DecodeError)
  deriving DecidableEq, Repr

/-- The mode that a mode bit stands for: 0 = TIME, 1 = VOLTAGE (R23, R43, R45). -/
def modeOfBit (b : Bool) : Mode := if b then .voltage else .time

/-- The mode bit of a mode (R23). -/
def modeBit : Mode → Bool
  | .time => false
  | .voltage => true

/-- `F_EVENT` (R45): the kind in bits 29..28, and for `STEP` the snapshot `m` (27), `t` (26..14), `v` (13..0).
The kind alone tells the event (R48); a reserved word is rejected (R47). -/
def decodeEvent (w : BitVec 30) : Decoded :=
  match (w.extractLsb' 28 2).toNat with
  | 0 => .ok (.step (modeOfBit (w.getLsbD 27)) (w.extractLsb' 14 13) (w.extractLsb' 0 14))
  | 1 => if w.extractLsb' 0 28 = 0#28 then .ok .tick else .rejected .reservedPayload
  | 2 => if w.extractLsb' 0 28 = 0#28 then .ok .reset else .rejected .reservedPayload
  | _ => .rejected .reservedKind

/-- `F_COMPOSE` (R43): `m` in bit 16, `s` in bits 15..14, `v` in bits 13..0. -/
def decodeCompose (w : BitVec 17) : Instr :=
  match modeOfBit (w.getLsbD 16) with
  | .time => .composeTime (w.extractLsb' 14 2) (w.extractLsb' 0 14)
  | .voltage => .composeVolt (w.extractLsb' 14 2) (w.extractLsb' 0 14)

/-- The decoder, total on every word: `F_SEGIN` `pdddd` (R41), `F_SELIN` `pp` (R42), `F_COMPOSE` (R43),
`F_FRAME` `ggggggggeeeeeeee` (R44), `F_EVENT` (R45). -/
def decode : InWord → Decoded
  | .segIn w => .ok (.segenc (w.extractLsb' 0 4) (w.getLsbD 4))
  | .selIn w => .ok (.digsel w)
  | .compose w => .ok (decodeCompose w)
  | .frame w => .ok (.shiftout (w.extractLsb' 8 8) (w.extractLsb' 0 8))
  | .event w => decodeEvent w
  | .noFormat _ _ => .rejected .noFormat

/-- The encoder: the word of an operation, written from the pattern strings of R41 to R45. -/
def encode : Instr → InWord
  | .segenc d p => .segIn (BitVec.ofBool p ++ d)
  | .digsel p => .selIn p
  | .composeTime s v => .compose (BitVec.ofBool false ++ s ++ v)
  | .composeVolt s v => .compose (BitVec.ofBool true ++ s ++ v)
  | .shiftout g e => .frame (g ++ e)
  | .step m t v => .event (0#2 ++ BitVec.ofBool (modeBit m) ++ t ++ v)
  | .tick => .event (1#2 ++ 0#28)
  | .reset => .event (2#2 ++ 0#28)

/-- The word that the low `nbits` bits `w` stand for at the format of that many bits. A format's width may be given
exactly or rounded up to whole bytes; in one byte, which two formats share, the narrowest format that holds the bits
is taken (DESIGN CHOICE, log 11). Bits above a format's width make it no word of that format (R48). -/
def tableWord (nbits w : Nat) : InWord :=
  if nbits = 2 ∧ w < 2 ^ 2 then .selIn (BitVec.ofNat 2 w)
  else if nbits = 5 ∧ w < 2 ^ 5 then .segIn (BitVec.ofNat 5 w)
  else if nbits = 8 ∧ w < 2 ^ 2 then .selIn (BitVec.ofNat 2 w)
  else if nbits = 8 ∧ w < 2 ^ 5 then .segIn (BitVec.ofNat 5 w)
  else if nbits = 16 ∧ w < 2 ^ 16 then .frame (BitVec.ofNat 16 w)
  else if (nbits = 17 ∨ nbits = 24) ∧ w < 2 ^ 17 then .compose (BitVec.ofNat 17 w)
  else if (nbits = 30 ∨ nbits = 32) ∧ w < 2 ^ 30 then .event (BitVec.ofNat 30 w)
  else .noFormat nbits w

/-- The operation that the decoder reads from the table's bits `w` of a row of `nbits` bits, none where it rejects. -/
def decodeTableWord (nbits w : Nat) : Option Instr :=
  match decode (tableWord nbits w) with
  | .ok i => some i
  | .rejected _ => none

end Sys2Proof
end

