-- ==== Sys2Proof/Config.lean ====
section
/-! DEFINITION. The implementation parameters of 00_scope.md R6: ranges, the types of the tables, and the configuration check. -/

namespace Sys2Proof.Config

/-- `T_MAX`: the largest elapsed time a TIME frame may show, in seconds (R6). -/
def tMax : Nat := 5999

/-- `MV_MAX`: the largest voltage a VOLTAGE frame may show, in millivolts (R6). -/
def mvMax : Nat := 9999

/-- The type of the constant table `SEG_MAP`: one 8-bit entry per digit 0..9 (R16, R30). -/
abbrev SegMap := Vector Byte 10

/-- The type of the constant table `SEL_MAP`: one 8-bit entry per digit position 0..3 (R17, R30). -/
abbrev SelMap := Vector Byte 4

/-- How many of a mask's eight bits are 0, that is ON (R10). -/
def zeroBits (b : Byte) : Nat := ((List.range 8).filter fun i => !b.getLsbD i).length

/-- R18: bit 7 of every entry of `SEG_MAP` is 1 (the decimal point is OFF in the base pattern). -/
def checkSegMap (m : SegMap) : Bool := m.toList.all fun b => b.getLsbD 7

/-- R19: every entry of `SEL_MAP` has exactly one 0 bit, and no two entries have it in the same place
(two one-hot masks with the same 0 bit are equal, so pairwise difference says it). -/
def checkSelMap (m : SelMap) : Bool :=
  (m.toList.all fun b => zeroBits b == 1) && decide (m.toList.Pairwise fun a b => a ≠ b)

/-- The model's configuration check (R18, R19): it refuses a configuration that breaks either rule. -/
def check (seg : SegMap) (sel : SelMap) : Bool := checkSegMap seg && checkSelMap sel

end Sys2Proof.Config
end

