-- ==== Sys2Proof/Machine/Tables.lean ====
section
/-! DEFINITION. The default values of the two constant tables (10_state.md R16, R17). -/

namespace Sys2Proof.Machine

/-- The default `SEG_MAP` of R16 (decisions D2, D3; UNVERIFIED against the repository, log 1). -/
def defaultSegMap : Config.SegMap := #v[0xC0, 0xF9, 0xA4, 0xB0, 0x99, 0x92, 0x82, 0xF8, 0x80, 0x90]

/-- The default `SEL_MAP` of R17 (decision D4; UNVERIFIED against the repository, log 1). -/
def defaultSelMap : Config.SelMap := #v[0xFE, 0xFD, 0xFB, 0xF7]

end Sys2Proof.Machine
end

