-- ==== Sys2Proof/Machine/State.lean ====
section
/-! DEFINITION. The machine's state: every register of 10_state.md R12, the chain, the two constant tables, the run
record's fault mark, and the model's own fields. -/

namespace Sys2Proof.Machine

/-- The value of register `FAULT` (R22, R100): the cause of the first fault since the last `RESET`. -/
inductive FaultCode where
  /-- code 0: no fault. -/
  | none
  /-- code 1: `DIGIT_RANGE`, raised by `SEGENC` on a digit above 9. -/
  | digitRange
  /-- code 2: `TIME_RANGE`, raised when a TIME frame is asked of more than 5999 s. -/
  | timeRange
  /-- code 3: `MV_RANGE`, raised when a VOLTAGE frame is asked of more than 9999 mV. -/
  | mvRange
  deriving DecidableEq, Repr

/-- The 2-bit code of `FAULT` (R22). -/
def FaultCode.code : FaultCode → BitVec 2
  | .none => 0
  | .digitRange => 1
  | .timeRange => 2
  | .mvRange => 3

/-- The three output lines (R13). -/
inductive Line where
  /-- latch-enable -/
  | lat
  /-- shift clock -/
  | clk
  /-- serial data -/
  | dat
  deriving DecidableEq, Repr

/-- Why the model stops (never the spec's own faults, which are next states with `FAULT` written: R101). -/
inductive Fault where
  /-- Raised by STEP in its shift arm, when `PH` is 50..63 while `BUSY` is 1: R65 gives no micro-step there, and R20
  says `PH` is 0..49. Safe: no run from reset reaches it (log 10). -/
  | microStepOutOfRange
  deriving DecidableEq, Repr

/-- Why the model gives no meaning. -/
inductive Refusal where
  /-- Raised by `exec` for an operation without a meaning yet; no operation is in this case. Safe. -/
  | notModelled (mnemonic : String)
  /-- Raised by `step` on an event word of the reserved kind 11 (R47: "The model **refuses** the event"). Safe. -/
  | reservedEventKind
  /-- Raised by `step` on a `TICK` or `RESET` word with a nonzero payload (R47). Safe. -/
  | reservedEventPayload
  /-- Raised by `step` on bits that fit none of the five formats (R48; log 11). Safe. -/
  | noFormat
  deriving DecidableEq, Repr

/-- The state of the block, of the chain it drives, and of the model's run. -/
structure State where
  /-- `SLOT`, 2 bits: the digit position rendered next (R14). -/
  slot : BitVec 2
  /-- `PEND`: a refresh is pending (R15). -/
  pend : Bool
  /-- `BUSY`: a frame is being serialized (R20). -/
  busy : Bool
  /-- `PH`, 6 bits, values 0..49: the next serializer micro-step (R20). -/
  ph : BitVec 6
  /-- `FRAME`: the frame being serialized (R21). -/
  frame : Frame
  /-- `LAT`: the level of the latch-enable line (R13). -/
  lat : Bool
  /-- `CLK`: the level of the shift-clock line (R13). -/
  clk : Bool
  /-- `DAT`: the level of the serial-data line (R13). -/
  dat : Bool
  /-- `FAULT` (R22). -/
  fault : FaultCode
  /-- `SEG_MAP`, the constant segment table (R16, R27). -/
  segMap : Config.SegMap
  /-- `SEL_MAP`, the constant digit-select table (R17, R27). -/
  selMap : Config.SelMap
  /-- `SR`, the chain's shift stage (R25). -/
  sr : BitVec 16
  /-- `OUT`, the chain's output stage (R25). -/
  out : BitVec 16
  /-- The run record's permanent fault mark (R101, R120). -/
  faultMark : Bool
  /-- The model's own: the mask last returned by an operation used on its own; `none` when there is no result (log 6). -/
  result : Option Byte
  /-- The model's own: the words still to be applied, the first one next (R38; log 3). -/
  pending : List InWord
  deriving DecidableEq, Repr

/-- The state after power-up and `RESET` (R26) with the chain's power-up draw `sr`, `out` (R25, R109) and the default
tables (R16, R17). -/
def State.powerUp (sr out : BitVec 16) : State where
  slot := 0
  pend := false
  busy := false
  ph := 0
  frame := 0x0000
  lat := false
  clk := false
  dat := false
  fault := .none
  segMap := defaultSegMap
  selMap := defaultSelMap
  sr := sr
  out := out
  faultMark := false
  result := none
  pending := []

/-- The machine right after reset: R26, with `SR = OUT = 0` for the power-up draw (DESIGN CHOICE, unsafe, log 2). -/
def State.reset : State := State.powerUp 0 0

end Sys2Proof.Machine
end

