-- ==== Sys2Proof/Machine/Ops.lean ====
section
/-! DEFINITION. The named operations: line writes and the chain's answer to them, raising a fault and leaving it,
delivering a result, and taking the next word. -/

namespace Sys2Proof.Machine

/-- The chain's shift: `SR[14:0] ‖ DAT` (R106). -/
def shiftIn (sr : BitVec 16) (d : Bool) : BitVec 16 := sr.extractLsb' 0 15 ++ BitVec.ofBool d

/-- `LineWrite(L, b)` (R9, R32): drives one line; a rising `CLK` shifts `DAT` into `SR` (R106), a rising `LAT` copies
`SR` to `OUT` (R107), and nothing else moves the chain. -/
def lineWrite (l : Line) (b : Bool) (s : State) : State :=
  { s with
    lat := if l = .lat then b else s.lat
    clk := if l = .clk then b else s.clk
    dat := if l = .dat then b else s.dat
    sr := if l = .clk ∧ b = true ∧ s.clk = false then shiftIn s.sr s.dat else s.sr
    out := if l = .lat ∧ b = true ∧ s.lat = false then s.sr else s.out }

/-- Line writes one after the other, the first of the list first. -/
def writeLines : List (Line × Bool) → State → State
  | [], s => s
  | (l, b) :: ws, s => writeLines ws (lineWrite l b s)

/-- `raise Fault(code)` (R101): the one way a fault is taken. `FAULT` keeps an earlier code, and the run record is
marked for good; there is no trap, nothing is saved and nothing else changes (R103). -/
def raiseFault (c : FaultCode) (s : State) : State :=
  { s with
    fault := if s.fault = .none then c else s.fault
    faultMark := true }

/-- Leaving a fault (R104): only `RESET` does it; the fault mark of the run record stays (R101, R120). -/
def clearFault (s : State) : State := { s with fault := .none }

/-- What a combinational operation answers: an 8-bit mask, or the fault it raises instead (R53 to R55). -/
inductive Mask where
  | mask (g : Byte)
  | raises (c : FaultCode)
  deriving DecidableEq, Repr

/-- An operation used on its own returns its mask, or raises its fault and has no result (R53; log 6). -/
def deliver (r : Mask) (s : State) : State :=
  match r with
  | .mask g => { s with result := some g }
  | .raises c => { raiseFault c s with result := none }

/-- `MemRead(SEL_MAP, p, 8)` (R9, R31): the index is 2 bits wide, so it is always in range. -/
def readSelMap (m : Config.SelMap) (p : BitVec 2) : Byte := m[p.toNat]'p.isLt

/-- `MemRead(SEG_MAP, d, 8)` (R9, R31): an index outside 0..9 is `DIGIT_RANGE`, before any read. -/
def readSegMap (m : Config.SegMap) (d : Nat) : Mask :=
  if h : d < 10 then .mask m[d] else .raises .digitRange

/-- The word that the next step applies, and the state with that word taken off (R38; log 3). -/
def takeWord (s : State) : Option (InWord × State) :=
  match s.pending with
  | [] => none
  | w :: rest => some (w, { s with pending := rest })

/-- Presents a word, so that the next step applies it (log 3). -/
def presentWord (w : InWord) (s : State) : State := { s with pending := w :: s.pending }

/-- With no word presented there is no event, and nothing changes (DESIGN CHOICE, log 4). -/
def noEvent (s : State) : State := s

/-- The refusal of a word that the decoder rejects (R47). -/
def refusalOf : DecodeError → Refusal
  | .reservedKind => .reservedEventKind
  | .reservedPayload => .reservedEventPayload
  | .noFormat => .noFormat

end Sys2Proof.Machine
end

