-- ==== Sys2Proof/Machine/Operands.lean ====
section
/-! DEFINITION. The computed operands: the segment encoder's mask, the formatter's digits (30_encoding.md R46), the
composed frame (41_digit_selector.md R62), and the serializer's line writes (42_serializer.md R64, R65). -/

namespace Sys2Proof.Machine

/-- `SEGENC(d, p)` (R53): the table entry of digit `d`, with bit 7 forced to 0 (decimal point lit) when `p` is 1. -/
def segenc (m : Config.SegMap) (d : Nat) (p : Bool) : Mask :=
  match readSegMap m d with
  | .mask v => .mask (if p then v &&& 0x7F else v)
  | .raises c => .raises c

/-- The digit and the decimal-point enable that slot `s` shows for `t` seconds (R54). -/
def timeDigit (s : BitVec 2) (t : Nat) : Nat × Bool :=
  match s.toNat with
  | 0 => ((t / 60) / 10, false)
  | 1 => ((t / 60) % 10, true)
  | 2 => ((t % 60) / 10, false)
  | _ => ((t % 60) % 10, false)

/-- The digit and the decimal-point enable that slot `s` shows for `mv` millivolts (R55). -/
def voltDigit (s : BitVec 2) (mv : Nat) : Nat × Bool :=
  match s.toNat with
  | 0 => (mv / 1000, true)
  | 1 => ((mv % 1000) / 100, false)
  | 2 => (((mv % 1000) % 100) / 10, false)
  | _ => ((mv % 1000) % 10, false)

/-- `COMPOSE_TIME(s, t)` (R54): out of range it raises `TIME_RANGE` for every slot, before any table read. -/
def composeTime (m : Config.SegMap) (s : BitVec 2) (t : Nat) : Mask :=
  if t > Config.tMax then .raises .timeRange
  else segenc m (timeDigit s t).1 (timeDigit s t).2

/-- `COMPOSE_VOLT(s, mv)` (R55): out of range it raises `MV_RANGE` for every slot, before any table read. -/
def composeVolt (m : Config.SegMap) (s : BitVec 2) (mv : Nat) : Mask :=
  if mv > Config.mvMax then .raises .mvRange
  else segenc m (voltDigit s mv).1 (voltDigit s mv).2

/-- The formatter as the poll uses it (R76): TIME mode reads only `T`, VOLTAGE mode only `MV` (R94). -/
def compose (m : Config.SegMap) (mode : Mode) (s : BitVec 2) (t v : Nat) : Mask :=
  match mode with
  | .time => composeTime m s t
  | .voltage => composeVolt m s v

/-- Micro-step `k` of frame `w` (R65): the line it writes and the level; none for `k` above 49. -/
def microStep (k : Nat) (w : Frame) : Option (Line × Bool) :=
  if k = 0 then some (.lat, false)
  else if k = 49 then some (.lat, true)
  else if k > 49 then none
  else
    match (k - 1) % 3 with
    | 0 => some (.dat, w.getLsbD (15 - (k - 1) / 3))
    | 1 => some (.clk, false)
    | _ => some (.clk, true)

/-- The three line writes of bit `w[15 - j]` (R64): data, clock low, clock high. -/
def bitWrites (w : Frame) (j : Nat) : List (Line × Bool) :=
  [(.dat, w.getLsbD (15 - j)), (.clk, false), (.clk, true)]

/-- All line writes of `SHIFTOUT(w)` in order (R64): latch low, the 16 bits most significant first, latch high. -/
def frameWrites (w : Frame) : List (Line × Bool) :=
  (.lat, false) :: (List.range 16).flatMap (bitWrites w) ++ [(.lat, true)]

end Sys2Proof.Machine
end

