-- ==== Sys2Proof/Machine/Encoder.lean ====
section
/-! DEFINITION. The segment encoder and the slot formatter used on their own: SEGENC, COMPOSE.TIME, COMPOSE.VOLT
(40_segment_encoder.md). They are combinational: they write no register, and run in every state (log 8). -/

namespace Sys2Proof.Machine

/-- SEGENC d, p (R53). -/
def execSegenc (d : BitVec 4) (p : Bool) (s : State) : Host.Outcome State Fault Refusal :=
  .next (deliver (segenc s.segMap d.toNat p) s)

/-- COMPOSE TIME, slot, v (R54); all 14 bits of `v` are compared with 5999 (R47; log 13). -/
def execComposeTime (slot : BitVec 2) (v : BitVec 14) (s : State) : Host.Outcome State Fault Refusal :=
  .next (deliver (composeTime s.segMap slot v.toNat) s)

/-- COMPOSE VOLT, slot, v (R55). -/
def execComposeVolt (slot : BitVec 2) (v : BitVec 14) (s : State) : Host.Outcome State Fault Refusal :=
  .next (deliver (composeVolt s.segMap slot v.toNat) s)

end Sys2Proof.Machine
end

