-- ==== Sys2Proof/Machine/Reset.lean ====
section
/-! DEFINITION. The RESET event (70_reset_and_hazards.md R120). -/

namespace Sys2Proof.Machine

/-- The register writes of RESET (R120), before its line writes. -/
def resetRegisters (s : State) : State :=
  clearFault { s with slot := 0, pend := false, busy := false, ph := 0, frame := 0x0000 }

/-- The line writes of RESET (R120): each can only lower a line, so the chain neither shifts nor commits. -/
def resetLines : List (Line × Bool) := [(.lat, false), (.clk, false), (.dat, false)]

/-- RESET (R120): enabled in every state. `SR`, `OUT`, the tables and the fault mark keep their values. -/
def execReset (s : State) : Host.Outcome State Fault Refusal :=
  .next (writeLines resetLines (resetRegisters s))

end Sys2Proof.Machine
end

