-- ==== Sys2Proof/Machine/Selector.lean ====
section
/-! DEFINITION. The digit selector used on its own: DIGSEL (41_digit_selector.md). -/

namespace Sys2Proof.Machine

/-- DIGSEL p (R61): the enable mask of position `p`; it never faults. -/
def execDigsel (p : BitVec 2) (s : State) : Host.Outcome State Fault Refusal :=
  .next (deliver (.mask (readSelMap s.selMap p)) s)

end Sys2Proof.Machine
end

