-- ==== Sys2Proof/Machine/Flags.lean ====
section
/-! DEFINITION. The block's one flag-like bit, `PEND` (43_sequencer.md R74, R76), and the choice of STEP's arm (R75). -/

namespace Sys2Proof.Machine

/-- `PEND <- 1` (R74). -/
def setPend (s : State) : State := { s with pend := true }

/-- `PEND <- 0`, the clear half of the poll's atomic test-and-clear (R76). -/
def clearPend (s : State) : State := { s with pend := false }

/-- The four arms of `STEP` (R75). -/
inductive StepArm where
  /-- STEP.STUCK (R80) -/
  | stuck
  /-- STEP.SHIFT (R78) -/
  | shift
  /-- STEP.POLL (R76) -/
  | poll
  /-- STEP.IDLE (R77) -/
  | idle
  deriving DecidableEq, Repr

/-- The arm that the block's state selects (R75): exactly one, in every state. -/
def stepArm (s : State) : StepArm :=
  if s.fault ≠ .none then .stuck
  else if s.busy then .shift
  else if s.pend then .poll
  else .idle

end Sys2Proof.Machine
end

