-- ==== Sys2Proof/Machine/Serializer.lean ====
section
/-! DEFINITION. The serializer: SHIFTOUT used on its own, and the one micro-step that a STEP performs (42_serializer.md,
43_sequencer.md R78, R79). -/

namespace Sys2Proof.Machine

/-- SHIFTOUT g, e (R64): the 50 line writes of frame `g ‖ e`, in order, as one operation (DEDUCED, log 7). -/
def execShiftout (g e : Byte) (s : State) : Host.Outcome State Fault Refusal :=
  .next (writeLines (frameWrites (mkFrame g e)) s)

/-- COMPLETE (R79): the serializer becomes idle and `SLOT` advances by 1, mod 4. -/
def complete (s : State) : State := { s with busy := false, ph := 0, slot := s.slot + 1 }

/-- `PH <- k + 1` (R78). -/
def advancePh (s : State) : State := { s with ph := s.ph + 1 }

/-- STEP.SHIFT (R78): micro-step `PH`, exactly one line write, then the next phase or the end of the frame. -/
def stepShift (s : State) : Host.Outcome State Fault Refusal :=
  match microStep s.ph.toNat s.frame with
  | none => .fault .microStepOutOfRange
  | some (l, b) =>
    if s.ph.toNat < 49 then .next (advancePh (lineWrite l b s))
    else .next (complete (lineWrite l b s))

end Sys2Proof.Machine
end

