-- ==== Sys2Proof/Machine/Sequencer.lean ====
section
/-! DEFINITION. The sequencer's events: TICK and STEP with its four arms (43_sequencer.md). -/

namespace Sys2Proof.Machine

/-- TICK (R74): requests one slot update; enabled in every state. -/
def execTick (s : State) : Host.Outcome State Fault Refusal := .next (setPend s)

/-- STEP.STUCK (R80): nothing changes until RESET (DEDUCED that a presented STEP is then used up, log 5). -/
def stepStuck (s : State) : State := s

/-- STEP.IDLE (R77): no write. -/
def stepIdle (s : State) : State := s

/-- `FRAME <- w; BUSY <- 1; PH <- 0` (R76). -/
def startFrame (w : Frame) (s : State) : State := { s with frame := w, busy := true, ph := 0 }

/-- STEP.POLL (R76): clears `PEND`, composes the frame of the current slot from the snapshot, and starts serializing
it; when the formatter raises a fault, `PEND` is already 0 and no later write happens (R101). -/
def stepPoll (m : Mode) (t : BitVec 13) (v : BitVec 14) (s : State) : State :=
  match compose s.segMap m s.slot t.toNat v.toNat with
  | .mask g => startFrame (mkFrame g (readSelMap s.selMap s.slot)) (clearPend s)
  | .raises c => raiseFault c (clearPend s)

/-- STEP (R75): one step of the block, by the arm that its state selects. Only the poll uses the snapshot. -/
def execStep (m : Mode) (t : BitVec 13) (v : BitVec 14) (s : State) : Host.Outcome State Fault Refusal :=
  match stepArm s with
  | .stuck => .next (stepStuck s)
  | .shift => stepShift s
  | .poll => .next (stepPoll m t v s)
  | .idle => .next (stepIdle s)

end Sys2Proof.Machine
end

