-- ==== Sys2Proof/Machine/Dispatch.lean ====
section
/-! DEFINITION. One arm per operation of spec/opcode_table.json. -/

namespace Sys2Proof.Machine

def exec (i : Instr) (s : State) : Host.Outcome State Fault Refusal :=
  match i with
  | .segenc d p => Sys2Proof.Machine.execSegenc d p s
  | .digsel p => Sys2Proof.Machine.execDigsel p s
  | .composeTime slot v => Sys2Proof.Machine.execComposeTime slot v s
  | .composeVolt slot v => Sys2Proof.Machine.execComposeVolt slot v s
  | .shiftout g e => Sys2Proof.Machine.execShiftout g e s
  | .step m t v => Sys2Proof.Machine.execStep m t v s
  | .tick => Sys2Proof.Machine.execTick s
  | .reset => Sys2Proof.Machine.execReset s

end Sys2Proof.Machine
end

