-- ==== Sys2Proof/Machine/Step.lean ====
section
/-! DEFINITION. One step of the machine: the next presented word is decoded and applied (20_memory.md R38). -/

namespace Sys2Proof.Machine

/-- One step: takes the next word, decodes it, and runs its operation on the state without that word; a rejected word
is refused by name (R47); with no word presented nothing happens (logs 3, 4). -/
def step (s : State) : Host.Outcome State Fault Refusal :=
  match takeWord s with
  | none => .next (noEvent s)
  | some (w, s') =>
    match decode w with
    | .ok i => exec i s'
    | .rejected e => .refused (refusalOf e)

/-- `s` with the table's bits `w` of a row of `nbits` bits presented as the very next word (logs 3, 11). -/
def State.withFetchWord (s : State) (nbits w : Nat) : State := presentWord (tableWord nbits w) s

end Sys2Proof.Machine
end

