-- ==== Sys2Proof/Machine/Display.lean ====
section
/-! DEFINITION. What an observer sees: the lines, `OUT`, and what `OUT` lights (10_state.md R28, 60_exceptions.md R108,
41_digit_selector.md R63). -/

namespace Sys2Proof.Machine

/-- What can be seen outside the block (R28). -/
structure Observation where
  lat : Bool
  clk : Bool
  dat : Bool
  out : BitVec 16
  deriving DecidableEq, Repr

/-- The observation of a state (R28). -/
def observe (s : State) : Observation := { lat := s.lat, clk := s.clk, dat := s.dat, out := s.out }

/-- Line `k` of `OUT[7:0]` enables position `p`: it is a line that the position's entry of `SEL_MAP` drives to 0
(R10, R17; DEDUCED for a table other than the default, log 21). A table that R19 allows gives a position one line. -/
def enablesPosition (sel : Config.SelMap) (p : BitVec 2) (k : Nat) : Bool := !(readSelMap sel p).getLsbD k

/-- Position `p` is lit: an enable line of it, active-low, is 0 in `OUT` (R10, R108). -/
def positionLit (sel : Config.SelMap) (out : BitVec 16) (p : BitVec 2) : Bool :=
  (List.range 8).any fun k => enablesPosition sel p k && !out.getLsbD k

/-- A segment of the digit: a to g in the order of bits 0..6, then the decimal point (R16; order D2, log 20). -/
inductive Segment where
  | a
  | b
  | c
  | d
  | e
  | f
  | g
  | dp
  deriving DecidableEq, Repr

/-- The bit of a segment mask that drives a segment (R16). -/
def segmentBit : Segment → Nat
  | .a => 0
  | .b => 1
  | .c => 2
  | .d => 3
  | .e => 4
  | .f => 5
  | .g => 6
  | .dp => 7

/-- Segment `x` of position `p` is lit: the position is, and the segment's line, bit `8 + i` of `OUT`, is 0 (R108). -/
def segmentLit (sel : Config.SelMap) (out : BitVec 16) (p : BitVec 2) (x : Segment) : Bool :=
  positionLit sel out p && !out.getLsbD (8 + segmentBit x)

/-- The four positions as a viewer reads them, leftmost first (R63; decision D5, log 20). -/
def leftToRight : List (BitVec 2) := [0, 1, 2, 3]

end Sys2Proof.Machine
end

