-- ==== Sys2Proof/Machine/HostSources.lean ====
section
/-! DEFINITION. The document's reference behaviour of the host-side producers of the inputs (44_host_sources.md). They
are outside the block (00_scope.md R4); no operation calls them, and the block takes `MODE`, `T`, `MV` as free inputs
(log 14). -/

namespace Sys2Proof.Machine

/-- The mode that the mode-hold pin gives: pressed reads 0 and means VOLTAGE (R86). -/
def modeOfPin (pin : Bool) : Mode := if pin then .time else .voltage

/-- `TimeKeeper.tick` (R89): one more second, wrapping at 6000. -/
def timeTick (t : Nat) : Nat := if t + 1 = 6000 then 0 else t + 1

/-- `TimeKeeper.reset` (R90). -/
def timeReset (_ : Nat) : Nat := 0

/-- The previous sample of the reset pin before any: released (R91, decision D27). -/
def resetPrevInitial : Bool := true

/-- One sample of the reset pin (R91): the new previous sample and the elapsed time. Only a 1 to 0 change resets. -/
def sampleReset (prev pin : Bool) (t : Nat) : Bool × Nat :=
  (pin, if prev = true ∧ pin = false then timeReset t else t)

/-- The elapsed time after a list of samples of the reset pin, the first sample first (R91, R95: no debounce). -/
def sampleResets : Bool → List Bool → Nat → Nat
  | _, [], t => t
  | prev, pin :: pins, t => sampleResets (sampleReset prev pin t).1 pins (sampleReset prev pin t).2

/-- `MV_OF_F` in exact arithmetic (R93), for the analog fraction `n / d`: `trunc(f × 3.3 × 1000)` clamped to 0..9999. -/
def mvOfFraction (n : Int) (d : Nat) : Nat := min 9999 (max 0 ((n * 3300).tdiv d)).toNat

end Sys2Proof.Machine
end

