-- ==== Sys2Proof/Machine/Trace.lean ====
section
/-! DEFINITION. Event traces: running a list of operations, the trace lines of 30_encoding.md R49 and the
pseudo-operations of R50, and what a trace's polls and commits are (43_sequencer.md R82, R83). -/

namespace Sys2Proof.Machine

/-- Applies operations one at a time, in order (R38); it stops at the first fault or refusal. -/
def runTrace : List Instr → State → Host.Outcome State Fault Refusal
  | [], s => .next s
  | i :: is, s =>
    match exec i s with
    | .next s' => runTrace is s'
    | .fault r => .fault r
    | .refused r => .refused r

/-- The inputs that a trace line may name (R49); what a line does not name is 0, and the mode is then TIME. -/
inductive Inputs where
  /-- `STEP` -/
  | bare
  /-- `STEP TIME t=<n>` -/
  | time (t : BitVec 13)
  /-- `STEP VOLT mv=<n>` -/
  | volt (mv : BitVec 14)
  /-- a full snapshot, as `STEP TIME t=<n> mv=<n2>` -/
  | full (m : Mode) (t : BitVec 13) (mv : BitVec 14)
  deriving DecidableEq, Repr

/-- The STEP event of a trace line's inputs (R49). -/
def stepWith : Inputs → Instr
  | .bare => .step .time 0 0
  | .time t => .step .time t 0
  | .volt mv => .step .voltage 0 mv
  | .full m t mv => .step m t mv

/-- A line of an event trace (R49), the pseudo-operations of R50 among them. -/
inductive TraceLine where
  | reset
  | tick
  | step (x : Inputs)
  | render (x : Inputs)
  | refresh (x : Inputs)
  | frameCycle (x : Inputs)
  deriving DecidableEq, Repr

/-- `RENDER <inputs>`: STEP with the inputs, then 50 bare STEPs (R50). -/
def renderEvents (x : Inputs) : List Instr := stepWith x :: List.replicate 50 (stepWith .bare)

/-- `REFRESH <inputs>`: TICK, then RENDER (R50). -/
def refreshEvents (x : Inputs) : List Instr := .tick :: renderEvents x

/-- `FRAMECYCLE <inputs>`: four times REFRESH (R50). -/
def frameCycleEvents (x : Inputs) : List Instr :=
  refreshEvents x ++ refreshEvents x ++ refreshEvents x ++ refreshEvents x

/-- The events that a trace line stands for (R49, R50). -/
def expandLine : TraceLine → List Instr
  | .reset => [.reset]
  | .tick => [.tick]
  | .step x => [stepWith x]
  | .render x => renderEvents x
  | .refresh x => refreshEvents x
  | .frameCycle x => frameCycleEvents x

/-- The operation is an event of the step relation (R24). -/
def isEvent : Instr → Bool
  | .step _ _ _ => true
  | .tick => true
  | .reset => true
  | .segenc _ _ => false
  | .digsel _ => false
  | .composeTime _ _ => false
  | .composeVolt _ _ => false
  | .shiftout _ _ => false

/-- The operation is a STEP. -/
def isStep : Instr → Bool
  | .step _ _ _ => true
  | .tick => false
  | .reset => false
  | .segenc _ _ => false
  | .digsel _ => false
  | .composeTime _ _ => false
  | .composeVolt _ _ => false
  | .shiftout _ _ => false

/-- The operation is a TICK. -/
def isTick (i : Instr) : Bool := decide (i = .tick)

/-- The operation is a STEP or a TICK, an event that is no RESET. -/
def isStepOrTick (i : Instr) : Bool := isStep i || isTick i

/-- Applied in state `s`, the operation is a poll (R76). -/
def isPoll (i : Instr) (s : State) : Bool := isStep i && decide (stepArm s = .poll)

/-- Applied in state `s`, the operation is the micro-step that commits a frame (R65, R79). -/
def isCommit (i : Instr) (s : State) : Bool := isStep i && decide (stepArm s = .shift) && decide (s.ph = 49#6)

/-- How many operations of a trace meet `p` in the state they are applied in. -/
def countTrace (p : Instr → State → Bool) : List Instr → State → Nat
  | [], _ => 0
  | i :: is, s =>
    (if p i s then 1 else 0) +
      match exec i s with
      | .next s' => countTrace p is s'
      | .fault _ => 0
      | .refused _ => 0

/-- The frame that an operation starts when it is a poll without a fault (R76). -/
def startedFrame (i : Instr) (s s' : State) : List Frame := if isPoll i s && s'.busy then [s'.frame] else []

/-- The frames that the polls of a trace composed (R76), the first poll's first. -/
def pollFrames : List Instr → State → List Frame
  | [], _ => []
  | i :: is, s =>
    match exec i s with
    | .next s' => startedFrame i s s' ++ pollFrames is s'
    | .fault _ => []
    | .refused _ => []

end Sys2Proof.Machine
end

