-- ==== Sys2Proof/Machine/Runs.lean ====
section
/-! DEFINITION. Infinite runs of events and the fairness that the model assumes of them (43_sequencer.md R84,
70_reset_and_hazards.md R130). A run is a sequence of events and the sequence of the states they are applied in; neither
is part of State (log 16). -/

namespace Sys2Proof.Machine

/-- An infinite run (R38, R84): event number `n` takes state number `n` to state number `n + 1`. A STEP in a faulted state
is such an event too, and changes nothing (DEDUCED, log 5). -/
def IsRun (events : Nat → Instr) (states : Nat → State) : Prop :=
  ∀ n : Nat, isEvent (events n) = true ∧ exec (events n) (states n) = .next (states (n + 1))

/-- The events numbered `n` to `n + k - 1`, a finite part of a run (R84). -/
def eventsFrom (events : Nat → Instr) (n k : Nat) : List Instr := (List.range' n k).map events

/-- From every point on, `p` holds at some later point. -/
def InfinitelyOften (p : Nat → Prop) : Prop := ∀ n : Nat, ∃ k : Nat, n ≤ k ∧ p k

/-- The first point from `n` on at which `p` holds is `k`. -/
def FirstFrom (p : Nat → Prop) (n k : Nat) : Prop := n ≤ k ∧ p k ∧ ∀ j : Nat, n ≤ j → j < k → ¬p j

/-- A run that the model admits (R130, decision D23): weak fairness, STEP is applied infinitely often. -/
structure FairRun (events : Nat → Instr) (states : Nat → State) : Prop where
  /-- It is a run. -/
  run : IsRun events states
  /-- STEP is applied infinitely often. -/
  fair : InfinitelyOften fun n => isStep (events n) = true

/-- The further assumption of a claim about cycling (R130): TICK recurs infinitely often. -/
def TicksRecur (events : Nat → Instr) : Prop := InfinitelyOften fun n => events n = .tick

end Sys2Proof.Machine
end

