-- ==== Sys2Proof/Safety.lean ====
section
/-! DEFINITION. What holds in a good state: the frame being serialized and the chain agree with the phase
(42_serializer.md R66 to R68), and only events are presented (30_encoding.md R49). -/

namespace Sys2Proof.Machine

/-- Every presented word is an event word: an event trace, in which no operation is used on its own (R49). -/
def eventsOnly (ws : List InWord) : Bool :=
  ws.all fun w =>
    match w with
    | .event _ => true
    | .segIn _ => false
    | .selIn _ => false
    | .compose _ => false
    | .frame _ => false
    | .noFormat _ _ => false

/-- How many bits of the frame are in `SR` when the next micro-step is `ph`: the `CLK` rises of the earlier ones (R65). -/
def bitsShifted (ph : Nat) : Nat := (ph - 1) / 3

/-- `w` is the frame of slot `s`: a composed segment mask and the select mask of the same position (R62). -/
def IsFrameOf (seg : Config.SegMap) (sel : Config.SelMap) (s : BitVec 2) (w : Frame) : Prop :=
  ∃ m : Mode, ∃ t : BitVec 13, ∃ v : BitVec 14, ∃ g : Byte,
    compose seg m s t.toNat v.toNat = .mask g ∧ w = mkFrame g (readSelMap sel s)

/-- The serializer's state, the lines and the chain agree. -/
structure SerializerInv (s : State) : Prop where
  /-- `PH` is 0 when idle (R20). -/
  idle : s.busy = false → s.ph = 0
  /-- `PH` is at most 49 while busy (R78). -/
  phase : s.busy = true → s.ph.toNat ≤ 49
  /-- `BUSY = 1` and `FAULT ≠ 0` never hold together (R75). -/
  noFault : s.busy = true → s.fault = .none
  /-- `LAT` is 0 from micro-step 0 until the commit (R67). -/
  latchLow : s.busy = true → 1 ≤ s.ph.toNat → s.lat = false
  /-- `DAT` holds bit `FRAME[15 - j]` between its write and its rising edge (R66). -/
  dataReady : s.busy = true → 1 ≤ s.ph.toNat → (s.ph.toNat - 1) % 3 ≠ 0 →
    s.dat = s.frame.getLsbD (15 - bitsShifted s.ph.toNat)
  /-- `CLK` is 0 before the rising edge of each bit (R66). -/
  clockLow : s.busy = true → 1 ≤ s.ph.toNat → (s.ph.toNat - 1) % 3 = 2 → s.clk = false
  /-- The low bits of `SR` are the frame's first bits (R34, R68). -/
  shifted : s.busy = true → ∀ i : Nat, i < bitsShifted s.ph.toNat →
    s.sr.getLsbD i = s.frame.getLsbD (16 - bitsShifted s.ph.toNat + i)

/-- The invariant of the machine under an event trace. -/
structure Inv (s : State) : Prop where
  /-- Only events are presented (R49). -/
  events : eventsOnly s.pending = true
  serializer : SerializerInv s
  /-- While busy, `FRAME` is the frame of the current slot (R14, R62). -/
  frameOfSlot : s.busy = true → IsFrameOf s.segMap s.selMap s.slot s.frame
  /-- A recorded fault is marked in the run record (R101). -/
  marked : s.fault ≠ .none → s.faultMark = true

end Sys2Proof.Machine
end

