-- ==== Sys2Proof/WellFormed.lean ====
section
/-! DEFINITION. Which operand values are legal (30_encoding.md R41, R43, R47; the host's obligations R87, R88).
An operation with an illegal operand still runs: it raises the fault that R47 names. -/

namespace Sys2Proof

/-- The input that a poll in mode `m` reads is in its range: `T` in TIME mode (R87), `MV` in VOLTAGE mode (R88). -/
def inputsLegal (m : Mode) (t v : Nat) : Bool :=
  match m with
  | .time => decide (t ≤ Config.tMax)
  | .voltage => decide (v ≤ Config.mvMax)

/-- Every operand has a value that R47 does not name as illegal. -/
def Instr.wellFormed : Instr → Bool
  | .segenc d _ => decide (d.toNat ≤ 9)
  | .digsel _ => true
  | .composeTime _ v => decide (v.toNat ≤ Config.tMax)
  | .composeVolt _ v => decide (v.toNat ≤ Config.mvMax)
  | .shiftout _ _ => true
  | .step m t v => inputsLegal m t.toNat v.toNat
  | .tick => true
  | .reset => true

end Sys2Proof
end

