-- ==== Sys2Proof/Certificates/Slice0/Obligations.lean ====
section
/-! DEFINITION. The statements for the provers. Each docstring names the rule of spec/ that the statement follows. -/

open Sys2Proof Sys2Proof.Machine

/-! ### Encoding -/

/-- R41 to R45: decoding the word of an operation gives it back, for every operation and every operand value. -/
def Obligations.DecodeOfEncode : Prop :=
  ∀ i : Instr, decode (encode i) = .ok i

/-- R41 to R45: a word that decodes is the word of the operation it decodes to, so no bit of it is dropped. -/
def Obligations.EncodeOfDecode : Prop :=
  ∀ (w : InWord) (i : Instr), decode w = .ok i → encode i = w

/-- R47, R48: of the words of the five formats, exactly the event words of kind 11 and the TICK and RESET words with a
nonzero payload are rejected, each by its name; every other event word, and every word of the other four formats,
decodes to an operation. -/
def Obligations.RejectedWordsAreTheReservedOnes : Prop :=
  (∀ w : BitVec 30,
    (decode (.event w) = .rejected .reservedKind ↔ w.getLsbD 29 = true ∧ w.getLsbD 28 = true) ∧
    (decode (.event w) = .rejected .reservedPayload ↔
      w.getLsbD 29 ≠ w.getLsbD 28 ∧ ∃ k : Nat, k < 28 ∧ w.getLsbD k = true) ∧
    ((∃ i : Instr, decode (.event w) = .ok i) ↔
      (w.getLsbD 29 = false ∧ w.getLsbD 28 = false) ∨
      (w.getLsbD 29 ≠ w.getLsbD 28 ∧ ∀ k : Nat, k < 28 → w.getLsbD k = false))) ∧
  (∀ w : BitVec 5, ∃ i : Instr, decode (.segIn w) = .ok i) ∧
  (∀ w : BitVec 2, ∃ i : Instr, decode (.selIn w) = .ok i) ∧
  (∀ w : BitVec 17, ∃ i : Instr, decode (.compose w) = .ok i) ∧
  (∀ w : BitVec 16, ∃ i : Instr, decode (.frame w) = .ok i)

/-- R45, R48: the kind bits alone tell the event: 00 is STEP, 01 is TICK, 10 is RESET. -/
def Obligations.EventKindTellsTheEvent : Prop :=
  ∀ (w : BitVec 30) (i : Instr), decode (.event w) = .ok i →
    (w.extractLsb' 28 2 = 0#2 ↔ isStep i = true) ∧
    (w.extractLsb' 28 2 = 1#2 ↔ i = .tick) ∧
    (w.extractLsb' 28 2 = 2#2 ↔ i = .reset)

/-- Words written out from the pattern strings of R41 to R45 (95_test_vectors.md sections 2.1 to 2.5) decode to the
operations they stand for. -/
def Obligations.WrittenOutWordsDecode : Prop :=
  decode (.segIn 0b10010#5) = .ok (.segenc 2 true) ∧
  decode (.selIn 0b10#2) = .ok (.digsel 2) ∧
  decode (.compose 0x0407D#17) = .ok (.composeTime 1 125) ∧
  decode (.compose 0x1E70F#17) = .ok (.composeVolt 3 9999) ∧
  decode (.frame 0xC0FE#16) = .ok (.shiftout 0xC0 0xFE) ∧
  decode (.event 0x05DBC000#30) = .ok (.step .time 5999 0) ∧
  decode (.event 0x08000672#30) = .ok (.step .voltage 0 1650) ∧
  decode (.event 0x10000000#30) = .ok .tick ∧
  decode (.event 0x20000000#30) = .ok .reset

/-! ### Fetching -/

/-- R38 applies events one at a time; that the next one is the first word of the list `pending` is the model's choice
(DESIGN CHOICE, log 3). When that word decodes, a step is its operation on the state without the word; nothing else
happens around it. -/
def Obligations.StepRunsDecodedOperation : Prop :=
  ∀ (s : State) (w : InWord) (rest : List InWord) (i : Instr),
    s.pending = w :: rest → decode w = .ok i → step s = exec i { s with pending := rest }

/-- R47, with the next word at the head of `pending` (the model's choice, log 3): a step on a reserved event word is
refused by name, which is the model's refusal mark (DEDUCED, log 12). -/
def Obligations.StepRefusesReservedWords : Prop :=
  ∀ (s : State) (w : BitVec 30) (rest : List InWord), s.pending = .event w :: rest →
    (w.extractLsb' 28 2 = 3#2 → step s = .refused .reservedEventKind) ∧
    (w.extractLsb' 28 2 = 1#2 → w.extractLsb' 0 28 ≠ 0#28 → step s = .refused .reservedEventPayload) ∧
    (w.extractLsb' 28 2 = 2#2 → w.extractLsb' 0 28 ≠ 0#28 → step s = .refused .reservedEventPayload)

/-- The model's choice (log 4): with no word presented, nothing happens. -/
def Obligations.StepWithoutEventKeepsState : Prop :=
  ∀ s : State, s.pending = [] → step s = .next s

/-- The model's choice (logs 3, 11): the operation of the table's bits, presented to any state, is what the next step
runs, and bits that give no operation are refused. -/
def Obligations.PresentedTableWordRunsNext : Prop :=
  ∀ (s : State) (nbits w : Nat),
    (∀ i : Instr, decodeTableWord nbits w = some i → step (s.withFetchWord nbits w) = exec i s) ∧
    (decodeTableWord nbits w = none → ∃ r : Refusal, step (s.withFetchWord nbits w) = .refused r)

/-- R38 applies events one at a time; that the order of the list `pending` is their order is the model's choice (DESIGN
CHOICE, log 3). Presenting the words of a list of operations and stepping once per word is applying the operations one
after the other. -/
def Obligations.PresentedTraceRunsInOrder : Prop :=
  ∀ (is : List Instr) (s : State), s.pending = [] →
    core.run is.length { s with pending := is.map encode } = runTrace is s

/-! ### Segment encoder, formatter and digit selector -/

/-- R53: SEGENC gives the table entry of a digit 0..9, with bit 7 cleared when `p` is 1, and raises `DIGIT_RANGE` on
10..15. For a table that R18 allows, `p = 0` gives bit 7 = 1, and `p = 1` gives that mask less 0x80, which differs from
it in bit 7 only. -/
def Obligations.SegencGivesEntryOrRaises : Prop :=
  ∀ (m : Config.SegMap) (d : Nat) (p : Bool),
    (∀ h : d < 10, segenc m d p = .mask (if p then m[d] &&& 0x7F else m[d])) ∧
    (10 ≤ d → segenc m d p = .raises .digitRange) ∧
    (∀ h : d < 10, Config.checkSegMap m = true →
      m[d].getLsbD 7 = true ∧ segenc m d true = .mask (m[d] - 0x80) ∧
      ∀ k : Nat, k < 8 → ((m[d] - 0x80).getLsbD k = m[d].getLsbD k ↔ k ≠ 7))

/-- R61: DIGSEL gives the table entry of the position. For a table that R19 allows, the entry has exactly one 0 bit,
and different positions have it in different places. -/
def Obligations.DigselGivesOneHotEntry : Prop :=
  ∀ m : Config.SelMap,
    (∀ p : BitVec 2, readSelMap m p = m[p.toNat]'p.isLt) ∧
    (Config.checkSelMap m = true →
      ∃ z : BitVec 2 → Nat, (∀ p q : BitVec 2, z p = z q → p = q) ∧
        ∀ p : BitVec 2, z p < 8 ∧ ∀ k : Nat, k < 8 → ((readSelMap m p).getLsbD k = false ↔ k = z p))

/-- R54: COMPOSE TIME gives the mask of the slot's digit (minutes tens, minutes units with the point, seconds tens,
seconds units) up to 5999 s, and raises `TIME_RANGE` above, for every slot. -/
def Obligations.ComposeTimeGivesDigitOrRaises : Prop :=
  ∀ (m : Config.SegMap) (t : Nat),
    (t ≤ 5999 → ∃ a b c d : Byte,
      m[t / 60 / 10]? = some a ∧ composeTime m 0 t = .mask a ∧
      m[t / 60 % 10]? = some b ∧ composeTime m 1 t = .mask (b &&& 0x7F) ∧
      m[t % 60 / 10]? = some c ∧ composeTime m 2 t = .mask c ∧
      m[t % 60 % 10]? = some d ∧ composeTime m 3 t = .mask d) ∧
    (5999 < t → ∀ slot : BitVec 2, composeTime m slot t = .raises .timeRange)

/-- R55: COMPOSE VOLT gives the mask of the slot's digit (volts with the point, tenths, hundredths, thousandths) up to
9999 mV, and raises `MV_RANGE` above, for every slot. -/
def Obligations.ComposeVoltGivesDigitOrRaises : Prop :=
  ∀ (m : Config.SegMap) (mv : Nat),
    (mv ≤ 9999 → ∃ a b c d : Byte,
      m[mv / 1000]? = some a ∧ composeVolt m 0 mv = .mask (a &&& 0x7F) ∧
      m[mv % 1000 / 100]? = some b ∧ composeVolt m 1 mv = .mask b ∧
      m[mv % 1000 % 100 / 10]? = some c ∧ composeVolt m 2 mv = .mask c ∧
      m[mv % 1000 % 10]? = some d ∧ composeVolt m 3 mv = .mask d) ∧
    (9999 < mv → ∀ slot : BitVec 2, composeVolt m slot mv = .raises .mvRange)

/-- The model's choice of how an operation used on its own answers (logs 6, 8, 13), for the masks of R53, R54, R55 and
R61: with legal operands, in every state, the mask is the result and nothing else changes. -/
def Obligations.OperationsAloneReturnTheirMask : Prop :=
  ∀ s : State,
    (∀ (d : BitVec 4) (p : Bool), d.toNat ≤ 9 → ∃ g : Byte,
      segenc s.segMap d.toNat p = .mask g ∧ exec (.segenc d p) s = .next { s with result := some g }) ∧
    (∀ p : BitVec 2, exec (.digsel p) s = .next { s with result := some (readSelMap s.selMap p) }) ∧
    (∀ (slot : BitVec 2) (v : BitVec 14), v.toNat ≤ 5999 → ∃ g : Byte,
      composeTime s.segMap slot v.toNat = .mask g ∧
      exec (.composeTime slot v) s = .next { s with result := some g }) ∧
    (∀ (slot : BitVec 2) (v : BitVec 14), v.toNat ≤ 9999 → ∃ g : Byte,
      composeVolt s.segMap slot v.toNat = .mask g ∧
      exec (.composeVolt slot v) s = .next { s with result := some g })

/-- The model's choice of the state a raise may meet (logs 6, 8, 9), for the faults of R53 to R55 and R101; that COMPOSE
TIME compares all 14 bits of its operand, so that 8192..16383 raise `TIME_RANGE` too, is DEDUCED from R43 and R47
(log 13). With an illegal operand there is no result, `FAULT` takes the code unless it holds one, the run is marked, and nothing else
changes. -/
def Obligations.OperationsAloneRecordTheirFault : Prop :=
  ∀ s : State,
    (∀ (d : BitVec 4) (p : Bool), 10 ≤ d.toNat → exec (.segenc d p) s = .next { s with
      result := none
      fault := if s.fault = .none then .digitRange else s.fault
      faultMark := true }) ∧
    (∀ (slot : BitVec 2) (v : BitVec 14), 5999 < v.toNat → exec (.composeTime slot v) s = .next { s with
      result := none
      fault := if s.fault = .none then .timeRange else s.fault
      faultMark := true }) ∧
    (∀ (slot : BitVec 2) (v : BitVec 14), 9999 < v.toNat → exec (.composeVolt slot v) s = .next { s with
      result := none
      fault := if s.fault = .none then .mvRange else s.fault
      faultMark := true })

/-- R57: for a table that R18 allows, bit 7 of a composed mask is 0 exactly in TIME mode on slot 1 and in VOLTAGE mode
on slot 0. -/
def Obligations.DecimalPointRule : Prop :=
  ∀ (m : Config.SegMap) (mode : Mode) (slot : BitVec 2) (t v : Nat) (g : Byte),
    Config.checkSegMap m = true → compose m mode slot t v = .mask g →
    (g.getLsbD 7 = false ↔ (mode = .time ∧ slot = 1) ∨ (mode = .voltage ∧ slot = 0))

/-- R58: an in-range time or voltage composes a mask for every slot, so a digit above 9 never reaches the encoder; and
out of range the fault is never `DIGIT_RANGE`. -/
def Obligations.FormatterDigitsAreInRange : Prop :=
  ∀ (m : Config.SegMap) (slot : BitVec 2) (n : Nat),
    (n ≤ 5999 → (timeDigit slot n).1 ≤ 9 ∧ ∃ g : Byte, composeTime m slot n = .mask g) ∧
    (n ≤ 9999 → (voltDigit slot n).1 ≤ 9 ∧ ∃ g : Byte, composeVolt m slot n = .mask g) ∧
    composeTime m slot n ≠ .raises .digitRange ∧ composeVolt m slot n ≠ .raises .digitRange

/-- R56, for the operations used on their own; that they then run in every state (DEDUCED, log 8) and leave their mask in
the field `result` (DESIGN CHOICE, log 6) is the model's. What SEGENC, COMPOSE.TIME and COMPOSE.VOLT return depends only
on the operands and `SEG_MAP`: in two states with the same table the results are the same, and no register but the
result, `FAULT` and the fault mark changes. -/
def Obligations.EncodersDependOnlyOnOperandsAndTable : Prop :=
  ∀ (i : Instr) (s₁ s₂ : State), s₁.segMap = s₂.segMap →
    (∃ d p, i = .segenc d p) ∨ (∃ slot v, i = .composeTime slot v) ∨ (∃ slot v, i = .composeVolt slot v) →
    ∃ t₁ t₂ : State, exec i s₁ = .next t₁ ∧ exec i s₂ = .next t₂ ∧ t₁.result = t₂.result ∧
      t₁ = { s₁ with result := t₁.result, fault := t₁.fault, faultMark := t₁.faultMark } ∧
      t₂ = { s₂ with result := t₂.result, fault := t₂.fault, faultMark := t₂.faultMark }

/-- R47: an operation whose operands are legal never raises a fault: the registers that record one are unchanged, but
by RESET. -/
def Obligations.LegalOperandsNeverFault : Prop :=
  ∀ (i : Instr) (s t : State), i.wellFormed = true → exec i s = .next t →
    t.faultMark = s.faultMark ∧ (i ≠ .reset → t.fault = s.fault)

/-! ### Line writes and the serializer -/

/-- R106, R32: a `CLK` rise shifts `DAT` into the low end of `SR`, a `LAT` rise copies `SR` to `OUT`, every other
line write moves only its line, and one that keeps the line's level changes nothing. -/
def Obligations.LineWritesMoveTheChainOnlyOnRises : Prop :=
  ∀ s : State,
    (s.clk = false → ∃ r : BitVec 16, lineWrite .clk true s = { s with clk := true, sr := r } ∧
      r.getLsbD 0 = s.dat ∧ ∀ k : Nat, k < 15 → r.getLsbD (k + 1) = s.sr.getLsbD k) ∧
    (s.clk = true → lineWrite .clk true s = s) ∧
    lineWrite .clk false s = { s with clk := false } ∧
    (s.lat = false → lineWrite .lat true s = { s with lat := true, out := s.sr }) ∧
    (s.lat = true → lineWrite .lat true s = s) ∧
    lineWrite .lat false s = { s with lat := false } ∧
    (∀ b : Bool, lineWrite .dat b s = { s with dat := b }) ∧
    lineWrite .clk s.clk s = s ∧ lineWrite .lat s.lat s = s ∧ lineWrite .dat s.dat s = s

/-- R65: the micro-step table. -/
def Obligations.MicroStepTable : Prop :=
  ∀ w : Frame,
    microStep 0 w = some (.lat, false) ∧
    (∀ j : Nat, j < 16 →
      microStep (1 + 3 * j) w = some (.dat, w.getLsbD (15 - j)) ∧
      microStep (2 + 3 * j) w = some (.clk, false) ∧
      microStep (3 + 3 * j) w = some (.clk, true)) ∧
    microStep 49 w = some (.lat, true) ∧
    (∀ k : Nat, 49 < k → microStep k w = none)

/-- R64, R65, R69: SHIFTOUT's line writes are exactly 50, and the one numbered `k` is micro-step `k`. -/
def Obligations.ShiftoutWritesAreTheMicroSteps : Prop :=
  ∀ w : Frame, (frameWrites w).length = 50 ∧ ∀ k : Nat, k < 50 → (frameWrites w)[k]? = microStep k w

/-- R68, for a SHIFTOUT used on its own; that it then runs as one operation in every state, also with `BUSY` 1 or `FAULT`
not 0, and writes no register but the lines, is the model's (DEDUCED, log 7). From every state it ends with `LAT = CLK = 1`, `DAT` the frame's bit 0, `SR = OUT` = the frame, and
nothing else changed. -/
def Obligations.ShiftoutPostcondition : Prop :=
  ∀ (g e : Byte) (s : State), exec (.shiftout g e) s =
    .next { s with lat := true, clk := true, dat := e.getLsbD 0, sr := g ++ e, out := g ++ e }

/-- R67: from the first line write of a frame to the last but one, `LAT` is 0 and `OUT` keeps its old value; the last
write raises `LAT`. -/
def Obligations.LatchLowDuringTheShift : Prop :=
  ∀ (w : Frame) (s : State),
    (∀ k : Nat, 1 ≤ k → k ≤ 49 →
      (writeLines ((frameWrites w).take k) s).lat = false ∧ (writeLines ((frameWrites w).take k) s).out = s.out) ∧
    (frameWrites w)[49]? = some (.lat, true) ∧ (writeLines (frameWrites w) s).lat = true

/-- R66, R34: before each of the 16 rising edges `CLK` is 0 and `DAT` holds bit `FRAME[15 - j]`; the edge is the next
write, and after it the bits sent so far are the low bits of `SR`. -/
def Obligations.DataBeforeClock : Prop :=
  ∀ (w : Frame) (s : State) (j : Nat), j < 16 →
    (writeLines ((frameWrites w).take (3 + 3 * j)) s).clk = false ∧
    (writeLines ((frameWrites w).take (3 + 3 * j)) s).dat = w.getLsbD (15 - j) ∧
    (frameWrites w)[3 + 3 * j]? = some (.clk, true) ∧
    ∀ k : Nat, k ≤ j → (writeLines ((frameWrites w).take (4 + 3 * j)) s).sr.getLsbD k = w.getLsbD (15 - j + k)

/-! ### Events -/

/-- R74: TICK sets `PEND` and changes nothing else, in every state. -/
def Obligations.TickSetsPendOnly : Prop :=
  ∀ s : State, exec .tick s = .next { s with pend := true }

/-- R105, R124: any number of ticks in a row is one tick. -/
def Obligations.TicksMerge : Prop :=
  ∀ (n : Nat) (s : State), runTrace (List.replicate (n + 1) .tick) s = .next { s with pend := true }

/-- R76, R62: a poll with its input in range clears `PEND` and starts the frame of the current slot, the composed
segment mask above the select mask of the same position; out of range it clears `PEND` and records the fault. Nothing
else changes. -/
def Obligations.PollStartsFrameOrRaises : Prop :=
  ∀ (t : BitVec 13) (v : BitVec 14) (s : State),
    s.fault = .none → s.busy = false → s.pend = true →
    (t.toNat ≤ 5999 → ∃ g : Byte, composeTime s.segMap s.slot t.toNat = .mask g ∧
      exec (.step .time t v) s =
        .next { s with pend := false, frame := g ++ readSelMap s.selMap s.slot, busy := true, ph := 0 }) ∧
    (v.toNat ≤ 9999 → ∃ g : Byte, composeVolt s.segMap s.slot v.toNat = .mask g ∧
      exec (.step .voltage t v) s =
        .next { s with pend := false, frame := g ++ readSelMap s.selMap s.slot, busy := true, ph := 0 }) ∧
    (5999 < t.toNat → exec (.step .time t v) s =
      .next { s with pend := false, fault := .timeRange, faultMark := true }) ∧
    (9999 < v.toNat → exec (.step .voltage t v) s =
      .next { s with pend := false, fault := .mvRange, faultMark := true })

/-- R77: with no fault, not busy and nothing pending, a STEP changes nothing, whatever its snapshot. -/
def Obligations.IdleStepKeepsState : Prop :=
  ∀ (m : Mode) (t : BitVec 13) (v : BitVec 14) (s : State),
    s.fault = .none → s.busy = false → s.pend = false → exec (.step m t v) s = .next s

/-- R78, R79: a STEP while busy makes exactly the line write of micro-step `PH` and goes to the next phase; at 49 it
raises the latch, and in the same step the serializer becomes idle and `SLOT` advances by 1, mod 4. -/
def Obligations.ShiftStepRunsOneMicroStep : Prop :=
  ∀ (m : Mode) (t : BitVec 13) (v : BitVec 14) (s : State),
    s.fault = .none → s.busy = true →
    (s.ph.toNat < 49 → ∃ (l : Line) (b : Bool), microStep s.ph.toNat s.frame = some (l, b) ∧
      exec (.step m t v) s = .next { lineWrite l b s with ph := BitVec.ofNat 6 (s.ph.toNat + 1) }) ∧
    (s.ph.toNat = 49 → exec (.step m t v) s =
      .next { s with
        lat := true
        out := if s.lat then s.out else s.sr
        busy := false
        ph := 0
        slot := BitVec.ofNat 2 ((s.slot.toNat + 1) % 4) })

/-- The model's own stop (log 10): a STEP while busy with `PH` above 49, for which R65 has no micro-step. -/
def Obligations.PhaseOutOfRangeStops : Prop :=
  ∀ (m : Mode) (t : BitVec 13) (v : BitVec 14) (s : State),
    s.fault = .none → s.busy = true → 49 < s.ph.toNat → exec (.step m t v) s = .fault .microStepOutOfRange

/-- R80, R104, as the model reads them (log 5): from a faulted state, every trace without RESET changes `PEND` alone,
and only by its ticks; a RESET ends the fault. -/
def Obligations.FaultHoldsUntilReset : Prop :=
  ∀ (is : List Instr) (s : State), s.fault ≠ .none → is.all isStepOrTick = true →
    runTrace is s = .next { s with pend := s.pend || is.any isTick } ∧
    ∃ t : State, runTrace (is ++ [.reset]) s = .next t ∧ t.fault = .none

/-- R120: RESET, in every state, sets the nine block registers to 0 and leaves the chain, the tables, the fault mark,
the last result and the words still presented. -/
def Obligations.ResetEventSetsBlockRegisters : Prop :=
  ∀ s : State, exec .reset s =
    .next { s with
      slot := 0
      pend := false
      busy := false
      ph := 0
      frame := 0x0000
      fault := .none
      lat := false
      clk := false
      dat := false }

/-- R26: what reset leaves in the block's registers, for every power-up draw of the chain. -/
def Obligations.ResetStateValues : Prop :=
  ∀ sr out : BitVec 16,
    (State.powerUp sr out).slot = 0#2 ∧ (State.powerUp sr out).pend = false ∧ (State.powerUp sr out).busy = false ∧
    (State.powerUp sr out).ph = 0#6 ∧ (State.powerUp sr out).frame = 0x0000#16 ∧ (State.powerUp sr out).lat = false ∧
    (State.powerUp sr out).clk = false ∧ (State.powerUp sr out).dat = false ∧
    (State.powerUp sr out).fault.code = 0#2 ∧
    (State.powerUp sr out).sr = sr ∧ (State.powerUp sr out).out = out ∧
    State.reset = State.powerUp State.reset.sr State.reset.out

/-! ### Rules of the whole machine -/

/-- R23, R81: only a poll uses the snapshot of a STEP; and a poll in TIME mode does not read `MV`, in VOLTAGE mode
not `T`. -/
def Obligations.SnapshotIsReadOnlyByPolls : Prop :=
  ∀ (m m' : Mode) (t t' : BitVec 13) (v v' : BitVec 14) (s : State),
    (stepArm s ≠ .poll → exec (.step m t v) s = exec (.step m' t' v') s) ∧
    exec (.step .time t v) s = exec (.step .time t v') s ∧
    exec (.step .voltage t v) s = exec (.step .voltage t' v) s

/-- R105: `PEND` is set only by TICK, and cleared only by a poll and by RESET. -/
def Obligations.PendIsSetByTickAndClearedByPollOrReset : Prop :=
  ∀ (i : Instr) (s t : State), exec i s = .next t →
    (s.pend = false → t.pend = true → i = .tick) ∧
    (s.pend = true → (t.pend = false ↔ i = .reset ∨ isPoll i s = true))

/-- R107: a `LAT` rise copies `SR` to `OUT`, and no event changes `OUT` but the one whose line write raises `LAT`, at
micro-step 49 of a frame. -/
def Obligations.OutChangesOnlyByCommit : Prop :=
  (∀ s : State, s.lat = false → lineWrite .lat true s = { s with lat := true, out := s.sr }) ∧
  (∀ (i : Instr) (s t : State), isEvent i = true → exec i s = .next t → t.out ≠ s.out →
    isCommit i s = true ∧ s.lat = false ∧ t.lat = true ∧ t.out = s.sr ∧ t.sr = s.sr)

/-- R14, R79, R82: but for RESET, `SLOT` advances by 1 (mod 4) at a commit and is unchanged by everything else. -/
def Obligations.SlotAdvancesOnlyAtCommit : Prop :=
  ∀ (i : Instr) (s t : State), exec i s = .next t → i ≠ .reset →
    t.slot = if isCommit i s then s.slot + 1 else s.slot

/-- R13, R127: only the serializer's micro-steps and RESET write the lines or move the chain; TICK, the combinational
operations and every other STEP leave them. A SHIFTOUT used on its own is the serializer's too (DEDUCED, log 7). -/
def Obligations.LinesAreWrittenOnlyBySerializerAndReset : Prop :=
  ∀ (i : Instr) (s t : State), exec i s = .next t →
    observe t ≠ observe s ∨ t.sr ≠ s.sr →
    (isStep i = true ∧ stepArm s = .shift) ∨ (∃ g e, i = .shiftout g e) ∨ (i = .reset ∧ t.sr = s.sr ∧ t.out = s.out)

/-- R27: no step writes `SEG_MAP` or `SEL_MAP`. -/
def Obligations.TablesAreNeverWritten : Prop :=
  ∀ s t : State, step s = .next t → t.segMap = s.segMap ∧ t.selMap = s.selMap

/-- R22, R101: a recorded fault is not overwritten before RESET, and the run record's mark is never cleared; a fault
that is recorded is marked. -/
def Obligations.FaultRecordIsKept : Prop :=
  ∀ (i : Instr) (s t : State), exec i s = .next t →
    (s.fault ≠ .none → i ≠ .reset → t.fault = s.fault) ∧
    (s.faultMark = true → t.faultMark = true) ∧
    (t.fault ≠ s.fault → t.fault ≠ .none → t.faultMark = true)

/-- R21: `FRAME` is written only by a poll and by RESET. -/
def Obligations.FrameIsWrittenOnlyByPollAndReset : Prop :=
  ∀ (i : Instr) (s t : State), exec i s = .next t → t.frame ≠ s.frame → isPoll i s = true ∨ i = .reset

/-! ### Invariants -/

/-- The invariant holds after reset, for every power-up draw of the chain. -/
def Obligations.InvariantHoldsAtReset : Prop :=
  ∀ sr out : BitVec 16, Inv (State.powerUp sr out)

/-- R20, R66, R67, R75, R78: from every state that meets the invariant, a step gives a state that meets it. -/
def Obligations.EveryStepKeepsTheInvariant : Prop :=
  ∀ s t : State, Inv s → step s = .next t → Inv t

/-- R78, R84: from every state that meets the invariant, no step faults; it can only go on or be refused. So there is
no end of a run: every infinite sequence of events has a run from that state, which meets the invariant throughout. That
this holds of a STEP in a state with `FAULT` not 0 too, where R80 and R84 give STEP no transition, is the model's reading
(DEDUCED, log 5): such a STEP is used up, changes nothing and answers a next state. -/
def Obligations.NoStepFaultsUnderTheInvariant : Prop :=
  (∀ (s : State) (r : Fault), Inv s → step s ≠ .fault r) ∧
  (∀ (s : State) (events : Nat → Instr), Inv s → (∀ n : Nat, isEvent (events n) = true) →
    ∃ states : Nat → State, states 0 = s ∧ IsRun events states ∧ ∀ n : Nat, Inv (states n))

/-- R20, R78: that `PH` is at most 49 while `BUSY` is 1, and 0 while it is 0, is kept by every operation, the ones used
on their own among them. -/
def Obligations.PhaseStaysInRange : Prop :=
  ∀ (i : Instr) (s t : State), exec i s = .next t →
    (s.busy = true → s.ph.toNat ≤ 49) → (s.busy = false → s.ph = 0) →
    (t.busy = true → t.ph.toNat ≤ 49) ∧ (t.busy = false → t.ph = 0)

/-! ### Runs -/

/-- R123: in a run of events from a state that meets the invariant, `OUT` is at every point its value at the start, the
frame that was being serialized then, or a frame that a poll of the run composed in full. -/
def Obligations.NoPartialFrameIsVisible : Prop :=
  ∀ (is : List Instr) (s t : State), SerializerInv s → is.all isEvent = true → runTrace is s = .next t →
    t.out = s.out ∨ (s.busy = true ∧ t.out = s.frame) ∨ t.out ∈ pollFrames is s

/-- R68, R69, R79, R70: once a frame is started, any STEPs and TICKs with exactly 50 STEPs among them commit it: the
lines, `SR`, `OUT`, `BUSY`, `PH` and `SLOT` end as the rules say, `PEND` records the ticks, and nothing else changes. -/
def Obligations.FiftyStepsCommitTheFrame : Prop :=
  ∀ (is : List Instr) (s : State),
    s.fault = .none → s.busy = true → s.ph = 0 → is.all isStepOrTick = true → (is.filter isStep).length = 50 →
    runTrace is s = .next { s with
      lat := true
      clk := true
      dat := s.frame.getLsbD 0
      sr := s.frame
      out := s.frame
      busy := false
      ph := 0
      slot := s.slot + 1
      pend := s.pend || is.any isTick }

/-- R50: RENDER with the input in range, from `BUSY = 0`, `FAULT = 0`, renders and commits the frame of the current slot
when `PEND` is 1, and does nothing when `PEND` is 0. -/
def Obligations.RenderCommitsTheSlotsFrame : Prop :=
  ∀ (m : Mode) (t : BitVec 13) (v : BitVec 14) (s : State),
    s.fault = .none → s.busy = false →
    (s.pend = true → inputsLegal m t.toNat v.toNat = true →
      ∃ g : Byte, compose s.segMap m s.slot t.toNat v.toNat = .mask g ∧
        runTrace (renderEvents (.full m t v)) s = .next { s with
          pend := false
          frame := mkFrame g (readSelMap s.selMap s.slot)
          ph := 0
          lat := true
          clk := true
          dat := (readSelMap s.selMap s.slot).getLsbD 0
          sr := mkFrame g (readSelMap s.selMap s.slot)
          out := mkFrame g (readSelMap s.selMap s.slot)
          slot := s.slot + 1 }) ∧
    (s.pend = false → runTrace (renderEvents (.full m t v)) s = .next s)

/-- R50: FRAMECYCLE with the input in range, from `BUSY = 0`, `FAULT = 0`, renders the four slots in order, commits four
frames, and returns `SLOT` to its start value. -/
def Obligations.FrameCycleRendersFourSlots : Prop :=
  ∀ (m : Mode) (t : BitVec 13) (v : BitVec 14) (s : State),
    s.fault = .none → s.busy = false → inputsLegal m t.toNat v.toNat = true →
    ∃ (g₀ g₁ g₂ g₃ : Byte) (u : State),
      compose s.segMap m s.slot t.toNat v.toNat = .mask g₀ ∧
      compose s.segMap m (s.slot + 1) t.toNat v.toNat = .mask g₁ ∧
      compose s.segMap m (s.slot + 2) t.toNat v.toNat = .mask g₂ ∧
      compose s.segMap m (s.slot + 3) t.toNat v.toNat = .mask g₃ ∧
      pollFrames (frameCycleEvents (.full m t v)) s =
        [mkFrame g₀ (readSelMap s.selMap s.slot), mkFrame g₁ (readSelMap s.selMap (s.slot + 1)),
          mkFrame g₂ (readSelMap s.selMap (s.slot + 2)), mkFrame g₃ (readSelMap s.selMap (s.slot + 3))] ∧
      countTrace isCommit (frameCycleEvents (.full m t v)) s = 4 ∧
      runTrace (frameCycleEvents (.full m t v)) s = .next u ∧
      u.slot = s.slot ∧ u.out = mkFrame g₃ (readSelMap s.selMap (s.slot + 3)) ∧ u.pend = false ∧ u.busy = false

/-- R83: in a run of events the commits are no more than the polls (one more if a frame is already started), and the
polls no more than the ticks (one more if a refresh is already pending). -/
def Obligations.CommitsNeverExceedPollsNorPollsTicks : Prop :=
  ∀ (is : List Instr) (s : State), is.all isEvent = true →
    countTrace isCommit is s ≤ countTrace isPoll is s + (if s.busy then 1 else 0) ∧
    countTrace isPoll is s ≤ is.countP isTick + (if s.pend then 1 else 0)

/-- R82: without RESET, `SLOT` has advanced by the number of commits, mod 4, and from a state that meets the invariant
every commit puts the current slot's select mask on `OUT[7:0]`; so consecutive commits cycle through the positions. -/
def Obligations.SlotsCycleWithCommits : Prop :=
  (∀ (is : List Instr) (s t : State), is.all isStepOrTick = true → runTrace is s = .next t →
    t.slot.toNat = (s.slot.toNat + countTrace isCommit is s) % 4) ∧
  (∀ (i : Instr) (s t : State), Inv s → exec i s = .next t → isCommit i s = true →
    t.out.extractLsb' 0 8 = readSelMap s.selMap s.slot ∧ t.slot.toNat = (s.slot.toNat + 1) % 4)

/-- R130: with no fault in the way, 50 STEPs commit every started frame, and 51 STEPs poll every pending refresh,
whatever TICKs fall between them. So in every fair run, from a point without a fault (and with the serializer's
invariant), a started frame is committed and a pending refresh is polled, unless a RESET comes first and drops it; the
commit puts that very frame on `OUT`. -/
def Obligations.PendingRefreshIsPolled : Prop :=
  (∀ (is : List Instr) (s : State),
    s.fault = .none → (s.busy = true → s.ph.toNat ≤ 49) → is.all isStepOrTick = true →
    (s.busy = true → 50 ≤ is.countP isStep → 1 ≤ countTrace isCommit is s) ∧
    (s.pend = true → 51 ≤ is.countP isStep → 1 ≤ countTrace isPoll is s)) ∧
  (∀ (events : Nat → Instr) (states : Nat → State) (n : Nat),
    FairRun events states → (states n).fault = .none → SerializerInv (states n) →
    ((states n).busy = true → ∃ k : Nat,
      FirstFrom (fun j => isCommit (events j) (states j) = true ∨ events j = .reset) n k ∧
      (events k ≠ .reset → (states (k + 1)).out = (states n).frame)) ∧
    ((states n).pend = true → ∃ k : Nat,
      FirstFrom (fun j => isPoll (events j) (states j) = true ∨ events j = .reset) n k))

/-- R121: after RESET, the first STEP after the first TICK polls slot 0, and the first commit is the 51st STEP counted
from it. -/
def Obligations.FirstRenderAfterResetIsSlotZero : Prop :=
  ∀ (x : List Instr) (m : Mode) (t : BitVec 13) (v : BitVec 14) (s : State),
    x.all isStep = true → inputsLegal m t.toNat v.toNat = true →
    ∃ (g : Byte) (u : State), compose s.segMap m 0 t.toNat v.toNat = .mask g ∧
      pollFrames (.reset :: x ++ .tick :: renderEvents (.full m t v)) s = [mkFrame g (readSelMap s.selMap 0)] ∧
      countTrace isCommit (.reset :: x ++ .tick :: (renderEvents (.full m t v)).take 50) s = 0 ∧
      countTrace isCommit (.reset :: x ++ .tick :: renderEvents (.full m t v)) s = 1 ∧
      runTrace (.reset :: x ++ .tick :: renderEvents (.full m t v)) s = .next u ∧
      u.out = mkFrame g (readSelMap s.selMap 0)

/-! ### Display and host side -/

/-- R108: with the default `SEL_MAP` (log 1), position `p` is lit exactly when `OUT[p]` is 0, and a segment of it exactly
when its line of `OUT[15:8]` is 0 as well, the decimal point's being bit 15. With every table that R19 allows (which
line enables a position is then DEDUCED, log 21), a committed frame of slot `p` lights position `p` and no other, and
lights there exactly the segments whose mask bit is 0 (segment order: log 20). -/
def Obligations.CommittedFrameLightsOnePosition : Prop :=
  (∀ (out : BitVec 16) (p : BitVec 2),
    positionLit defaultSelMap out p = !out.getLsbD p.toNat ∧
    (∀ x : Segment, segmentLit defaultSelMap out p x =
      (positionLit defaultSelMap out p && !out.getLsbD (8 + segmentBit x))) ∧
    segmentLit defaultSelMap out p .dp = (positionLit defaultSelMap out p && !out.getLsbD 15)) ∧
  (∀ (sel : Config.SelMap) (g : Byte) (p q : BitVec 2) (x : Segment), Config.checkSelMap sel = true →
    (positionLit sel (mkFrame g (readSelMap sel p)) q = true ↔ q = p) ∧
    segmentLit sel (mkFrame g (readSelMap sel p)) q x = (decide (q = p) && !g.getLsbD (segmentBit x)))

/-- R89, R90 (host side): a second later the elapsed time is one more, 0 after 5999, and stays in 0..5999; a reset
gives 0 from any value. -/
def Obligations.HostTimeStaysInRange : Prop :=
  ∀ t : Nat, (t ≠ 5999 → timeTick t = t + 1) ∧ timeTick 5999 = 0 ∧ (t ≤ 5999 → timeTick t ≤ 5999) ∧ timeReset t = 0

/-- R91 (host side): a sample resets exactly on a released-to-pressed change, and holding the button for any number of
samples resets once, at the first. -/
def Obligations.HostResetOncePerPress : Prop :=
  ∀ (prev pin : Bool) (t : Nat) (n : Nat),
    (sampleReset prev pin t = (pin, if prev = true ∧ pin = false then 0 else t)) ∧ resetPrevInitial = true ∧
    sampleResets true (List.replicate (n + 1) false) t = 0 ∧
    sampleResets false (List.replicate n false) t = t

/-- R93 (host side): for a fraction in [0, 1] the millivolts are `3300 × n / d` rounded toward zero, at most 3300; for
every fraction they are at most 9999, and 0 for a negative one. -/
def Obligations.HostMillivoltsAreClamped : Prop :=
  ∀ (n : Int) (d : Nat), 0 < d →
    (∀ k : Nat, n = (k : Int) → k ≤ d → mvOfFraction n d = k * 3300 / d ∧ mvOfFraction n d ≤ 3300) ∧
    (∀ k : Nat, n = (k : Int) → mvOfFraction n d = min 9999 (k * 3300 / d)) ∧
    (n < 0 → mvOfFraction n d = 0) ∧ mvOfFraction n d ≤ 9999

/-! ### Infinite runs -/

/-- R130: in a fair run without a fault or a RESET in which TICK recurs infinitely often, the display cycles through all
four positions: from every point on, each position's frame is committed again. Without TICKs the block ends up idle for
ever, whatever STEPs are applied. -/
def Obligations.FairRunsCycleThroughPositions : Prop :=
  ∀ (events : Nat → Instr) (states : Nat → State),
    FairRun events states → Inv (states 0) → (∀ n : Nat, events n ≠ .reset ∧ (states n).fault = .none) →
    (TicksRecur events → ∀ (p : BitVec 2) (n : Nat), ∃ k : Nat, n ≤ k ∧
      isCommit (events k) (states k) = true ∧ (states k).slot = p ∧
      (states (k + 1)).out.extractLsb' 0 8 = readSelMap (states 0).selMap p) ∧
    ((∀ n : Nat, events n ≠ .tick) → ∃ n : Nat, ∀ k : Nat, n ≤ k →
      stepArm (states k) = .idle ∧ states k = states n)
end

