-- ==== Sys2Proof/Laws/State.lean ====
section
/-! SUPPORT. One lemma per field per update: what each named update of the state does to each field. -/

namespace Sys2Proof.Machine

/-! ### A line write (R32) -/

@[simp] theorem lineWrite_slot (l : Line) (b : Bool) (s : State) : (lineWrite l b s).slot = s.slot := rfl
@[simp] theorem lineWrite_pend (l : Line) (b : Bool) (s : State) : (lineWrite l b s).pend = s.pend := rfl
@[simp] theorem lineWrite_busy (l : Line) (b : Bool) (s : State) : (lineWrite l b s).busy = s.busy := rfl
@[simp] theorem lineWrite_ph (l : Line) (b : Bool) (s : State) : (lineWrite l b s).ph = s.ph := rfl
@[simp] theorem lineWrite_frame (l : Line) (b : Bool) (s : State) : (lineWrite l b s).frame = s.frame := rfl
@[simp] theorem lineWrite_lat (l : Line) (b : Bool) (s : State) :
    (lineWrite l b s).lat = if l = .lat then b else s.lat := rfl
@[simp] theorem lineWrite_clk (l : Line) (b : Bool) (s : State) :
    (lineWrite l b s).clk = if l = .clk then b else s.clk := rfl
@[simp] theorem lineWrite_dat (l : Line) (b : Bool) (s : State) :
    (lineWrite l b s).dat = if l = .dat then b else s.dat := rfl
@[simp] theorem lineWrite_fault (l : Line) (b : Bool) (s : State) : (lineWrite l b s).fault = s.fault := rfl
@[simp] theorem lineWrite_segMap (l : Line) (b : Bool) (s : State) : (lineWrite l b s).segMap = s.segMap := rfl
@[simp] theorem lineWrite_selMap (l : Line) (b : Bool) (s : State) : (lineWrite l b s).selMap = s.selMap := rfl
@[simp] theorem lineWrite_sr (l : Line) (b : Bool) (s : State) :
    (lineWrite l b s).sr = if l = .clk ∧ b = true ∧ s.clk = false then shiftIn s.sr s.dat else s.sr := rfl
@[simp] theorem lineWrite_out (l : Line) (b : Bool) (s : State) :
    (lineWrite l b s).out = if l = .lat ∧ b = true ∧ s.lat = false then s.sr else s.out := rfl
@[simp] theorem lineWrite_faultMark (l : Line) (b : Bool) (s : State) : (lineWrite l b s).faultMark = s.faultMark := rfl
@[simp] theorem lineWrite_result (l : Line) (b : Bool) (s : State) : (lineWrite l b s).result = s.result := rfl
@[simp] theorem lineWrite_pending (l : Line) (b : Bool) (s : State) : (lineWrite l b s).pending = s.pending := rfl

/-! ### Raising a fault (R101) -/

@[simp] theorem raiseFault_slot (c : FaultCode) (s : State) : (raiseFault c s).slot = s.slot := rfl
@[simp] theorem raiseFault_pend (c : FaultCode) (s : State) : (raiseFault c s).pend = s.pend := rfl
@[simp] theorem raiseFault_busy (c : FaultCode) (s : State) : (raiseFault c s).busy = s.busy := rfl
@[simp] theorem raiseFault_ph (c : FaultCode) (s : State) : (raiseFault c s).ph = s.ph := rfl
@[simp] theorem raiseFault_frame (c : FaultCode) (s : State) : (raiseFault c s).frame = s.frame := rfl
@[simp] theorem raiseFault_lat (c : FaultCode) (s : State) : (raiseFault c s).lat = s.lat := rfl
@[simp] theorem raiseFault_clk (c : FaultCode) (s : State) : (raiseFault c s).clk = s.clk := rfl
@[simp] theorem raiseFault_dat (c : FaultCode) (s : State) : (raiseFault c s).dat = s.dat := rfl
@[simp] theorem raiseFault_fault (c : FaultCode) (s : State) :
    (raiseFault c s).fault = if s.fault = .none then c else s.fault := rfl
@[simp] theorem raiseFault_segMap (c : FaultCode) (s : State) : (raiseFault c s).segMap = s.segMap := rfl
@[simp] theorem raiseFault_selMap (c : FaultCode) (s : State) : (raiseFault c s).selMap = s.selMap := rfl
@[simp] theorem raiseFault_sr (c : FaultCode) (s : State) : (raiseFault c s).sr = s.sr := rfl
@[simp] theorem raiseFault_out (c : FaultCode) (s : State) : (raiseFault c s).out = s.out := rfl
@[simp] theorem raiseFault_faultMark (c : FaultCode) (s : State) : (raiseFault c s).faultMark = true := rfl
@[simp] theorem raiseFault_result (c : FaultCode) (s : State) : (raiseFault c s).result = s.result := rfl
@[simp] theorem raiseFault_pending (c : FaultCode) (s : State) : (raiseFault c s).pending = s.pending := rfl

/-! ### Leaving a fault (R104) -/

@[simp] theorem clearFault_slot (s : State) : (clearFault s).slot = s.slot := rfl
@[simp] theorem clearFault_pend (s : State) : (clearFault s).pend = s.pend := rfl
@[simp] theorem clearFault_busy (s : State) : (clearFault s).busy = s.busy := rfl
@[simp] theorem clearFault_ph (s : State) : (clearFault s).ph = s.ph := rfl
@[simp] theorem clearFault_frame (s : State) : (clearFault s).frame = s.frame := rfl
@[simp] theorem clearFault_lat (s : State) : (clearFault s).lat = s.lat := rfl
@[simp] theorem clearFault_clk (s : State) : (clearFault s).clk = s.clk := rfl
@[simp] theorem clearFault_dat (s : State) : (clearFault s).dat = s.dat := rfl
@[simp] theorem clearFault_fault (s : State) : (clearFault s).fault = .none := rfl
@[simp] theorem clearFault_segMap (s : State) : (clearFault s).segMap = s.segMap := rfl
@[simp] theorem clearFault_selMap (s : State) : (clearFault s).selMap = s.selMap := rfl
@[simp] theorem clearFault_sr (s : State) : (clearFault s).sr = s.sr := rfl
@[simp] theorem clearFault_out (s : State) : (clearFault s).out = s.out := rfl
@[simp] theorem clearFault_faultMark (s : State) : (clearFault s).faultMark = s.faultMark := rfl
@[simp] theorem clearFault_result (s : State) : (clearFault s).result = s.result := rfl
@[simp] theorem clearFault_pending (s : State) : (clearFault s).pending = s.pending := rfl

/-! ### TICK's write (R74) -/

@[simp] theorem setPend_slot (s : State) : (setPend s).slot = s.slot := rfl
@[simp] theorem setPend_pend (s : State) : (setPend s).pend = true := rfl
@[simp] theorem setPend_busy (s : State) : (setPend s).busy = s.busy := rfl
@[simp] theorem setPend_ph (s : State) : (setPend s).ph = s.ph := rfl
@[simp] theorem setPend_frame (s : State) : (setPend s).frame = s.frame := rfl
@[simp] theorem setPend_lat (s : State) : (setPend s).lat = s.lat := rfl
@[simp] theorem setPend_clk (s : State) : (setPend s).clk = s.clk := rfl
@[simp] theorem setPend_dat (s : State) : (setPend s).dat = s.dat := rfl
@[simp] theorem setPend_fault (s : State) : (setPend s).fault = s.fault := rfl
@[simp] theorem setPend_segMap (s : State) : (setPend s).segMap = s.segMap := rfl
@[simp] theorem setPend_selMap (s : State) : (setPend s).selMap = s.selMap := rfl
@[simp] theorem setPend_sr (s : State) : (setPend s).sr = s.sr := rfl
@[simp] theorem setPend_out (s : State) : (setPend s).out = s.out := rfl
@[simp] theorem setPend_faultMark (s : State) : (setPend s).faultMark = s.faultMark := rfl
@[simp] theorem setPend_result (s : State) : (setPend s).result = s.result := rfl
@[simp] theorem setPend_pending (s : State) : (setPend s).pending = s.pending := rfl

/-! ### The poll's clear (R76) -/

@[simp] theorem clearPend_slot (s : State) : (clearPend s).slot = s.slot := rfl
@[simp] theorem clearPend_pend (s : State) : (clearPend s).pend = false := rfl
@[simp] theorem clearPend_busy (s : State) : (clearPend s).busy = s.busy := rfl
@[simp] theorem clearPend_ph (s : State) : (clearPend s).ph = s.ph := rfl
@[simp] theorem clearPend_frame (s : State) : (clearPend s).frame = s.frame := rfl
@[simp] theorem clearPend_lat (s : State) : (clearPend s).lat = s.lat := rfl
@[simp] theorem clearPend_clk (s : State) : (clearPend s).clk = s.clk := rfl
@[simp] theorem clearPend_dat (s : State) : (clearPend s).dat = s.dat := rfl
@[simp] theorem clearPend_fault (s : State) : (clearPend s).fault = s.fault := rfl
@[simp] theorem clearPend_segMap (s : State) : (clearPend s).segMap = s.segMap := rfl
@[simp] theorem clearPend_selMap (s : State) : (clearPend s).selMap = s.selMap := rfl
@[simp] theorem clearPend_sr (s : State) : (clearPend s).sr = s.sr := rfl
@[simp] theorem clearPend_out (s : State) : (clearPend s).out = s.out := rfl
@[simp] theorem clearPend_faultMark (s : State) : (clearPend s).faultMark = s.faultMark := rfl
@[simp] theorem clearPend_result (s : State) : (clearPend s).result = s.result := rfl
@[simp] theorem clearPend_pending (s : State) : (clearPend s).pending = s.pending := rfl

/-! ### The poll's start of a frame (R76) -/

@[simp] theorem startFrame_slot (w : Frame) (s : State) : (startFrame w s).slot = s.slot := rfl
@[simp] theorem startFrame_pend (w : Frame) (s : State) : (startFrame w s).pend = s.pend := rfl
@[simp] theorem startFrame_busy (w : Frame) (s : State) : (startFrame w s).busy = true := rfl
@[simp] theorem startFrame_ph (w : Frame) (s : State) : (startFrame w s).ph = 0 := rfl
@[simp] theorem startFrame_frame (w : Frame) (s : State) : (startFrame w s).frame = w := rfl
@[simp] theorem startFrame_lat (w : Frame) (s : State) : (startFrame w s).lat = s.lat := rfl
@[simp] theorem startFrame_clk (w : Frame) (s : State) : (startFrame w s).clk = s.clk := rfl
@[simp] theorem startFrame_dat (w : Frame) (s : State) : (startFrame w s).dat = s.dat := rfl
@[simp] theorem startFrame_fault (w : Frame) (s : State) : (startFrame w s).fault = s.fault := rfl
@[simp] theorem startFrame_segMap (w : Frame) (s : State) : (startFrame w s).segMap = s.segMap := rfl
@[simp] theorem startFrame_selMap (w : Frame) (s : State) : (startFrame w s).selMap = s.selMap := rfl
@[simp] theorem startFrame_sr (w : Frame) (s : State) : (startFrame w s).sr = s.sr := rfl
@[simp] theorem startFrame_out (w : Frame) (s : State) : (startFrame w s).out = s.out := rfl
@[simp] theorem startFrame_faultMark (w : Frame) (s : State) : (startFrame w s).faultMark = s.faultMark := rfl
@[simp] theorem startFrame_result (w : Frame) (s : State) : (startFrame w s).result = s.result := rfl
@[simp] theorem startFrame_pending (w : Frame) (s : State) : (startFrame w s).pending = s.pending := rfl

/-! ### The next phase (R78) -/

@[simp] theorem advancePh_slot (s : State) : (advancePh s).slot = s.slot := rfl
@[simp] theorem advancePh_pend (s : State) : (advancePh s).pend = s.pend := rfl
@[simp] theorem advancePh_busy (s : State) : (advancePh s).busy = s.busy := rfl
@[simp] theorem advancePh_ph (s : State) : (advancePh s).ph = s.ph + 1 := rfl
@[simp] theorem advancePh_frame (s : State) : (advancePh s).frame = s.frame := rfl
@[simp] theorem advancePh_lat (s : State) : (advancePh s).lat = s.lat := rfl
@[simp] theorem advancePh_clk (s : State) : (advancePh s).clk = s.clk := rfl
@[simp] theorem advancePh_dat (s : State) : (advancePh s).dat = s.dat := rfl
@[simp] theorem advancePh_fault (s : State) : (advancePh s).fault = s.fault := rfl
@[simp] theorem advancePh_segMap (s : State) : (advancePh s).segMap = s.segMap := rfl
@[simp] theorem advancePh_selMap (s : State) : (advancePh s).selMap = s.selMap := rfl
@[simp] theorem advancePh_sr (s : State) : (advancePh s).sr = s.sr := rfl
@[simp] theorem advancePh_out (s : State) : (advancePh s).out = s.out := rfl
@[simp] theorem advancePh_faultMark (s : State) : (advancePh s).faultMark = s.faultMark := rfl
@[simp] theorem advancePh_result (s : State) : (advancePh s).result = s.result := rfl
@[simp] theorem advancePh_pending (s : State) : (advancePh s).pending = s.pending := rfl

/-! ### The end of a frame (R79) -/

@[simp] theorem complete_slot (s : State) : (complete s).slot = s.slot + 1 := rfl
@[simp] theorem complete_pend (s : State) : (complete s).pend = s.pend := rfl
@[simp] theorem complete_busy (s : State) : (complete s).busy = false := rfl
@[simp] theorem complete_ph (s : State) : (complete s).ph = 0 := rfl
@[simp] theorem complete_frame (s : State) : (complete s).frame = s.frame := rfl
@[simp] theorem complete_lat (s : State) : (complete s).lat = s.lat := rfl
@[simp] theorem complete_clk (s : State) : (complete s).clk = s.clk := rfl
@[simp] theorem complete_dat (s : State) : (complete s).dat = s.dat := rfl
@[simp] theorem complete_fault (s : State) : (complete s).fault = s.fault := rfl
@[simp] theorem complete_segMap (s : State) : (complete s).segMap = s.segMap := rfl
@[simp] theorem complete_selMap (s : State) : (complete s).selMap = s.selMap := rfl
@[simp] theorem complete_sr (s : State) : (complete s).sr = s.sr := rfl
@[simp] theorem complete_out (s : State) : (complete s).out = s.out := rfl
@[simp] theorem complete_faultMark (s : State) : (complete s).faultMark = s.faultMark := rfl
@[simp] theorem complete_result (s : State) : (complete s).result = s.result := rfl
@[simp] theorem complete_pending (s : State) : (complete s).pending = s.pending := rfl

/-! ### Presenting a word -/

@[simp] theorem presentWord_slot (w : InWord) (s : State) : (presentWord w s).slot = s.slot := rfl
@[simp] theorem presentWord_pend (w : InWord) (s : State) : (presentWord w s).pend = s.pend := rfl
@[simp] theorem presentWord_busy (w : InWord) (s : State) : (presentWord w s).busy = s.busy := rfl
@[simp] theorem presentWord_ph (w : InWord) (s : State) : (presentWord w s).ph = s.ph := rfl
@[simp] theorem presentWord_frame (w : InWord) (s : State) : (presentWord w s).frame = s.frame := rfl
@[simp] theorem presentWord_lat (w : InWord) (s : State) : (presentWord w s).lat = s.lat := rfl
@[simp] theorem presentWord_clk (w : InWord) (s : State) : (presentWord w s).clk = s.clk := rfl
@[simp] theorem presentWord_dat (w : InWord) (s : State) : (presentWord w s).dat = s.dat := rfl
@[simp] theorem presentWord_fault (w : InWord) (s : State) : (presentWord w s).fault = s.fault := rfl
@[simp] theorem presentWord_segMap (w : InWord) (s : State) : (presentWord w s).segMap = s.segMap := rfl
@[simp] theorem presentWord_selMap (w : InWord) (s : State) : (presentWord w s).selMap = s.selMap := rfl
@[simp] theorem presentWord_sr (w : InWord) (s : State) : (presentWord w s).sr = s.sr := rfl
@[simp] theorem presentWord_out (w : InWord) (s : State) : (presentWord w s).out = s.out := rfl
@[simp] theorem presentWord_faultMark (w : InWord) (s : State) : (presentWord w s).faultMark = s.faultMark := rfl
@[simp] theorem presentWord_result (w : InWord) (s : State) : (presentWord w s).result = s.result := rfl
@[simp] theorem presentWord_pending (w : InWord) (s : State) : (presentWord w s).pending = w :: s.pending := rfl

end Sys2Proof.Machine
end

