-- ==== Sys2Proof/Laws/Ops.lean ====
section
/-! SUPPORT. One lemma per shared operation: everything it can do. -/

namespace Sys2Proof.Machine

/-! ### Table reads and the formatter -/

/-- A digit 0..9 reads its entry (R31). -/
theorem readSegMap_of_lt (m : Config.SegMap) (d : Nat) (h : d < 10) : readSegMap m d = .mask m[d] := by
  simp [readSegMap, h]

/-- The encoder's two answers (R53). -/
theorem segenc_cases (m : Config.SegMap) (d : Nat) (p : Bool) :
    (∃ h : d < 10, segenc m d p = .mask (if p then m[d] &&& 0x7F else m[d])) ∨
      (10 ≤ d ∧ segenc m d p = .raises .digitRange) := by
  by_cases h : d < 10
  · exact .inl ⟨h, by simp [segenc, readSegMap, h]⟩
  · exact .inr ⟨by omega, by simp [segenc, readSegMap, h]⟩

/-- The encoder on a digit (R53). -/
theorem segenc_of_lt (m : Config.SegMap) (d : Nat) (p : Bool) (h : d < 10) :
    segenc m d p = .mask (if p then m[d] &&& 0x7F else m[d]) := by
  simp [segenc, readSegMap, h]

/-- The encoder above 9 (R53). -/
theorem segenc_of_ge (m : Config.SegMap) (d : Nat) (p : Bool) (h : 10 ≤ d) :
    segenc m d p = .raises .digitRange := by
  simp [segenc, readSegMap, Nat.not_lt.mpr h]

/-- The four slots (R14). -/
theorem slot_cases (s : BitVec 2) : s = 0 ∨ s = 1 ∨ s = 2 ∨ s = 3 := by
  revert s
  decide

/-- A TIME digit of an in-range time is a decimal digit. -/
theorem timeDigit_lt (s : BitVec 2) (t : Nat) (h : t ≤ 5999) : (timeDigit s t).1 < 10 := by
  rcases slot_cases s with rfl | rfl | rfl | rfl <;> simp [timeDigit] <;> omega

/-- A VOLTAGE digit of an in-range voltage is a decimal digit. -/
theorem voltDigit_lt (s : BitVec 2) (mv : Nat) (h : mv ≤ 9999) : (voltDigit s mv).1 < 10 := by
  rcases slot_cases s with rfl | rfl | rfl | rfl <;> simp [voltDigit] <;> omega

/-- What the formatter can answer: with the input that its mode reads in range, a mask; else that mode's fault
(R54, R55, R76). -/
theorem compose_cases (m : Config.SegMap) (mode : Mode) (s : BitVec 2) (t v : Nat) :
    (inputsLegal mode t v = true ∧ ∃ g : Byte, compose m mode s t v = .mask g) ∨
      (inputsLegal mode t v = false ∧
        compose m mode s t v = .raises (match mode with | .time => .timeRange | .voltage => .mvRange)) := by
  cases mode with
  | time =>
    by_cases h : t ≤ 5999
    · refine .inl ⟨by simp [inputsLegal, Config.tMax, h], ?_⟩
      simp [compose, composeTime, Config.tMax, Nat.not_lt.mpr h, segenc_of_lt _ _ _ (timeDigit_lt s t h)]
    · exact .inr ⟨by simp [inputsLegal, Config.tMax, h],
        by simp [compose, composeTime, Config.tMax, Nat.lt_of_not_le h]⟩
  | voltage =>
    by_cases h : v ≤ 9999
    · refine .inl ⟨by simp [inputsLegal, Config.mvMax, h], ?_⟩
      simp [compose, composeVolt, Config.mvMax, Nat.not_lt.mpr h, segenc_of_lt _ _ _ (voltDigit_lt s v h)]
    · exact .inr ⟨by simp [inputsLegal, Config.mvMax, h],
        by simp [compose, composeVolt, Config.mvMax, Nat.lt_of_not_le h]⟩

/-! ### Faults and results -/

/-- A result without a fault (log 6). -/
@[simp] theorem deliver_mask (g : Byte) (s : State) : deliver (.mask g) s = { s with result := some g } := rfl

/-- A raise has no result (R53, R101; log 6). -/
@[simp] theorem deliver_raises (c : FaultCode) (s : State) :
    deliver (.raises c) s = { raiseFault c s with result := none } := rfl

/-! ### Line writes -/

/-- `SR[14:0] ‖ DAT`: the new bit is the lowest, every other bit moves up by one (R106). -/
theorem shiftIn_getLsbD (sr : BitVec 16) (d : Bool) (k : Nat) :
    (shiftIn sr d).getLsbD k = if k = 0 then d else decide (k < 16) && sr.getLsbD (k - 1) := by
  unfold shiftIn
  rw [BitVec.getLsbD_append]
  rcases k with _ | k
  · simp
  · simp [BitVec.getLsbD_extractLsb']
    by_cases h : k < 15 <;> simp [h] <;> omega

/-- Line writes in two parts. -/
theorem writeLines_append (xs ys : List (Line × Bool)) (s : State) :
    writeLines (xs ++ ys) s = writeLines ys (writeLines xs s) := by
  induction xs generalizing s with
  | nil => rfl
  | cons x xs ih => simp [writeLines, ih]

/-- What line writes leave alone: every field but the lines and the chain (R32). -/
theorem writeLines_frame (xs : List (Line × Bool)) (s : State) :
    writeLines xs s =
      { s with
        lat := (writeLines xs s).lat
        clk := (writeLines xs s).clk
        dat := (writeLines xs s).dat
        sr := (writeLines xs s).sr
        out := (writeLines xs s).out } := by
  induction xs generalizing s with
  | nil => rfl
  | cons x xs ih =>
    rw [show writeLines (x :: xs) s = writeLines xs (lineWrite x.1 x.2 s) from rfl, ih]
    rfl

/-! ### The micro-step as cases -/

/-- The four kinds of micro-step, and none above 49 (R65). -/
theorem microStep_cases (k : Nat) (w : Frame) :
    (k = 0 ∧ microStep k w = some (.lat, false)) ∨
    (1 ≤ k ∧ k < 49 ∧ (k - 1) % 3 = 0 ∧ microStep k w = some (.dat, w.getLsbD (15 - (k - 1) / 3))) ∨
    (1 ≤ k ∧ k < 49 ∧ (k - 1) % 3 = 1 ∧ microStep k w = some (.clk, false)) ∨
    (1 ≤ k ∧ k < 49 ∧ (k - 1) % 3 = 2 ∧ microStep k w = some (.clk, true)) ∨
    (k = 49 ∧ microStep k w = some (.lat, true)) ∨ (49 < k ∧ microStep k w = none) := by
  by_cases h0 : k = 0
  · exact .inl ⟨h0, by simp [microStep, h0]⟩
  by_cases h49 : k = 49
  · exact .inr (.inr (.inr (.inr (.inl ⟨h49, by simp [microStep, h49]⟩))))
  by_cases hgt : k > 49
  · exact .inr (.inr (.inr (.inr (.inr ⟨hgt, by simp [microStep, h0, h49, hgt]⟩))))
  have h3 : (k - 1) % 3 = 0 ∨ (k - 1) % 3 = 1 ∨ (k - 1) % 3 = 2 := by omega
  have hr : 1 ≤ k ∧ k < 49 := by omega
  rcases h3 with h | h | h
  · exact .inr (.inl ⟨hr.1, hr.2, h, by simp [microStep, h0, h49, hgt, h]⟩)
  · exact .inr (.inr (.inl ⟨hr.1, hr.2, h, by simp [microStep, h0, h49, hgt, h]⟩))
  · exact .inr (.inr (.inr (.inl ⟨hr.1, hr.2, h, by simp [microStep, h0, h49, hgt, h]⟩)))

/-! ### The arms of STEP and the step itself -/

/-- The arm of STEP and the conditions that select it (R75). -/
theorem stepArm_cases (s : State) :
    (s.fault ≠ .none ∧ stepArm s = .stuck) ∨
    (s.fault = .none ∧ s.busy = true ∧ stepArm s = .shift) ∨
    (s.fault = .none ∧ s.busy = false ∧ s.pend = true ∧ stepArm s = .poll) ∨
    (s.fault = .none ∧ s.busy = false ∧ s.pend = false ∧ stepArm s = .idle) := by
  unfold stepArm
  by_cases h : s.fault = .none <;> cases hb : s.busy <;> cases hp : s.pend <;> simp [h]

/-- Everything a STEP can do when it answers a next state (R76 to R80). -/
theorem execStep_cases (m : Mode) (t : BitVec 13) (v : BitVec 14) (s u : State) (h : execStep m t v s = .next u) :
    (stepArm s = .stuck ∧ u = s) ∨
    (stepArm s = .shift ∧ ∃ l b, microStep s.ph.toNat s.frame = some (l, b) ∧
      u = if s.ph.toNat < 49 then advancePh (lineWrite l b s) else complete (lineWrite l b s)) ∨
    (stepArm s = .poll ∧ ∃ g, compose s.segMap m s.slot t.toNat v.toNat = .mask g ∧
      u = startFrame (mkFrame g (readSelMap s.selMap s.slot)) (clearPend s)) ∨
    (stepArm s = .poll ∧ ∃ c, compose s.segMap m s.slot t.toNat v.toNat = .raises c ∧
      u = raiseFault c (clearPend s)) ∨
    (stepArm s = .idle ∧ u = s) := by
  unfold execStep at h
  split at h
  next ha =>
    cases h
    exact .inl ⟨ha, rfl⟩
  next ha =>
    refine .inr (.inl ⟨ha, ?_⟩)
    unfold stepShift at h
    split at h
    · cases h
    next l b hm =>
      refine ⟨l, b, hm, ?_⟩
      split at h <;> cases h <;> simp [*]
  next ha =>
    cases h
    unfold stepPoll
    split
    next g hg => exact .inr (.inr (.inl ⟨ha, g, hg, rfl⟩))
    next c hc => exact .inr (.inr (.inr (.inl ⟨ha, c, hc, rfl⟩)))
  next ha =>
    cases h
    exact .inr (.inr (.inr (.inr ⟨ha, rfl⟩)))

/-- Everything a step can do when it answers a next state: nothing without a word, or the decoded operation. -/
theorem step_cases (s u : State) (h : step s = .next u) :
    (s.pending = [] ∧ u = s) ∨
    ∃ w rest i, s.pending = w :: rest ∧ decode w = .ok i ∧ exec i { s with pending := rest } = .next u := by
  unfold step at h
  cases hp : s.pending with
  | nil => simp [takeWord, hp, noEvent] at h; exact .inl ⟨rfl, h.symm⟩
  | cons w rest =>
    refine .inr ⟨w, rest, ?_⟩
    simp only [takeWord, hp] at h
    split at h
    next i hi => exact ⟨i, rfl, hi, h⟩
    next => cases h

/-! ### The display -/

/-- When a position is lit (R108): a line is 0 both in its entry of `SEL_MAP` and in `OUT`. -/
theorem positionLit_iff (sel : Config.SelMap) (out : BitVec 16) (p : BitVec 2) :
    positionLit sel out p = true ↔
      ∃ k : Nat, k < 8 ∧ (readSelMap sel p).getLsbD k = false ∧ out.getLsbD k = false := by
  simp [positionLit, enablesPosition, List.any_eq_true]

/-- The low byte of a frame is its select mask (R33). -/
theorem mkFrame_low (g e : Byte) (k : Nat) (h : k < 8) : (mkFrame g e).getLsbD k = e.getLsbD k := by
  rw [mkFrame, BitVec.getLsbD_append]
  simp [h]

/-- The high byte of a frame is its segment mask (R33). -/
theorem mkFrame_high (g e : Byte) (k : Nat) : (mkFrame g e).getLsbD (8 + k) = g.getLsbD k := by
  rw [mkFrame, BitVec.getLsbD_append]
  simp

end Sys2Proof.Machine
end

