-- ==== Sys2Proof/Laws/Exec.lean ====
section
/-! SUPPORT. What an event word decodes to, and everything an operation can do when it answers a next state. -/

namespace Sys2Proof.Machine

/-- The four kinds of event word, and what each decodes to (R45, R47). -/
theorem decodeEvent_cases (w : BitVec 30) :
    (w.extractLsb' 28 2 = 0#2 ∧
      decodeEvent w =
        .ok (.step (modeOfBit (w.getLsbD 27)) (w.extractLsb' 14 13) (w.extractLsb' 0 14))) ∨
    (w.extractLsb' 28 2 = 1#2 ∧
      decodeEvent w = if w.extractLsb' 0 28 = 0#28 then .ok .tick else .rejected .reservedPayload) ∨
    (w.extractLsb' 28 2 = 2#2 ∧
      decodeEvent w = if w.extractLsb' 0 28 = 0#28 then .ok .reset else .rejected .reservedPayload) ∨
    (w.extractLsb' 28 2 = 3#2 ∧ decodeEvent w = .rejected .reservedKind) := by
  rcases slot_cases (w.extractLsb' 28 2) with h | h | h | h
  · exact .inl ⟨h, by unfold decodeEvent; simp only [h]; rfl⟩
  · exact .inr (.inl ⟨h, by unfold decodeEvent; simp only [h]; rfl⟩)
  · exact .inr (.inr (.inl ⟨h, by unfold decodeEvent; simp only [h]; rfl⟩))
  · exact .inr (.inr (.inr ⟨h, by unfold decodeEvent; simp only [h]; rfl⟩))

/-- Everything an operation can do when it answers a next state: a combinational one delivers its mask or its fault,
SHIFTOUT and RESET write lines, TICK sets `PEND`, and STEP has its arms (`execStep_cases`). -/
theorem exec_cases (i : Instr) (s t : State) (h : exec i s = .next t) :
    (∃ r : Mask, t = deliver r s ∧ isEvent i = false ∧ (∀ g e, i ≠ .shiftout g e) ∧
      (i.wellFormed = true → ∃ g, r = .mask g)) ∨
    (∃ g e, i = .shiftout g e ∧ t = writeLines (frameWrites (mkFrame g e)) s) ∨
    (∃ m a v, i = .step m a v ∧ execStep m a v s = .next t) ∨
    (i = .tick ∧ t = setPend s) ∨
    (i = .reset ∧ t = writeLines resetLines (resetRegisters s)) := by
  cases i with
  | segenc d p =>
    cases h
    refine .inl ⟨_, rfl, rfl, by simp, fun hw => ⟨_, segenc_of_lt _ _ _ ?_⟩⟩
    exact Nat.lt_succ_of_le (of_decide_eq_true hw)
  | digsel p =>
    cases h
    exact .inl ⟨.mask _, rfl, rfl, by simp, fun _ => ⟨_, rfl⟩⟩
  | composeTime a v =>
    cases h
    refine .inl ⟨_, rfl, rfl, by simp, fun hw => ?_⟩
    rcases compose_cases s.segMap .time a v.toNat 0 with h | h
    · exact h.2
    · rw [show Instr.wellFormed (.composeTime a v) = inputsLegal .time v.toNat 0 from rfl, h.1] at hw
      cases hw
  | composeVolt a v =>
    cases h
    refine .inl ⟨_, rfl, rfl, by simp, fun hw => ?_⟩
    rcases compose_cases s.segMap .voltage a 0 v.toNat with h | h
    · exact h.2
    · rw [show Instr.wellFormed (.composeVolt a v) = inputsLegal .voltage 0 v.toNat from rfl, h.1] at hw
      cases hw
  | shiftout g e =>
    cases h
    exact .inr (.inl ⟨g, e, rfl, rfl⟩)
  | step m a v => exact .inr (.inr (.inl ⟨m, a, v, rfl, h⟩))
  | tick =>
    cases h
    exact .inr (.inr (.inr (.inl ⟨rfl, rfl⟩)))
  | reset =>
    cases h
    exact .inr (.inr (.inr (.inr ⟨rfl, rfl⟩)))

/-- No operation reads or writes the words still presented: changing them beforehand or afterwards is the same. -/
theorem exec_pending (i : Instr) (s : State) (ws : List InWord) :
    exec i { s with pending := ws } =
      match exec i s with
      | .next t => .next { t with pending := ws }
      | .fault r => .fault r
      | .refused r => .refused r := by
  cases i with
  | segenc d p => simp only [exec, execSegenc]; cases segenc s.segMap d.toNat p <;> rfl
  | digsel p => rfl
  | composeTime a v => simp only [exec, execComposeTime]; cases composeTime s.segMap a v.toNat <;> rfl
  | composeVolt a v => simp only [exec, execComposeVolt]; cases composeVolt s.segMap a v.toNat <;> rfl
  | shiftout g e =>
    simp only [exec, execShiftout]
    generalize frameWrites (mkFrame g e) = xs
    congr 1
    induction xs generalizing s with
    | nil => rfl
    | cons x xs ih => exact ih (lineWrite x.1 x.2 s)
  | step m t v =>
    simp only [exec, execStep]
    rw [show stepArm { s with pending := ws } = stepArm s from rfl]
    cases stepArm s with
    | stuck => rfl
    | shift =>
      simp only [stepShift]
      cases microStep s.ph.toNat s.frame with
      | none => rfl
      | some x => dsimp only; split <;> rfl
    | poll =>
      simp only [stepPoll]
      cases compose s.segMap m s.slot t.toNat v.toNat <;> rfl
    | idle => rfl
  | tick => rfl
  | reset => rfl

/-- Only a STEP while busy with `PH` above 49 stops with a fault of the model (log 10). -/
theorem exec_fault (i : Instr) (s : State) (r : Fault) (h : exec i s = .fault r) :
    isStep i = true ∧ s.fault = .none ∧ s.busy = true ∧ 49 < s.ph.toNat := by
  cases i with
  | step m t v =>
    simp only [exec, execStep] at h
    rcases stepArm_cases s with ⟨_, ha⟩ | ⟨hf, hb, ha⟩ | ⟨_, _, _, ha⟩ | ⟨_, _, _, ha⟩ <;> rw [ha] at h
    · cases h
    · refine ⟨rfl, hf, hb, ?_⟩
      simp only [stepShift] at h
      rcases microStep_cases s.ph.toNat s.frame with
        ⟨_, e⟩ | ⟨_, _, _, e⟩ | ⟨_, _, _, e⟩ | ⟨_, _, _, e⟩ | ⟨_, e⟩ | ⟨hk, e⟩ <;> rw [e] at h
      all_goals first | exact hk | (dsimp only at h; split at h <;> cases h)
    · cases h
    · cases h
  | segenc d p => cases h
  | digsel p => cases h
  | composeTime a v => cases h
  | composeVolt a v => cases h
  | shiftout g e => cases h
  | tick => cases h
  | reset => cases h

/-- No operation is refused: only a word that decodes to none is (R47). -/
theorem exec_not_refused (i : Instr) (s : State) (r : Refusal) : exec i s ≠ .refused r := by
  cases i with
  | step m t v =>
    simp only [exec, execStep]
    cases stepArm s with
    | shift =>
      simp only [stepShift]
      cases microStep s.ph.toNat s.frame with
      | none => simp
      | some x => dsimp only; split <;> simp
    | stuck => simp
    | poll => simp
    | idle => simp
  | segenc d p => exact nofun
  | digsel p => exact nofun
  | composeTime a v => exact nofun
  | composeVolt a v => exact nofun
  | shiftout g e => exact nofun
  | tick => exact nofun
  | reset => exact nofun

/-- The next phase as a number (R78). -/
theorem ph_succ (s : State) (h : s.ph.toNat < 63) : (s.ph + 1).toNat = s.ph.toNat + 1 := by
  simp [BitVec.toNat_add]
  omega

end Sys2Proof.Machine
end

