-- ==== Sys2Proof/Laws/PerInstr.lean ====
section
/-! SUPPORT. Per-operation statements over the syntax: the encoded word lies in the operation's row of
spec/opcode_table.json, that is, has the row's width and, under the row's mask, the row's match value. -/

namespace Sys2Proof.Laws.TableRow

/-- The width of a word's format (R48). -/
def wordWidth : InWord → Nat
  | .segIn _ => 5
  | .selIn _ => 2
  | .compose _ => 17
  | .frame _ => 16
  | .event _ => 30
  | .noFormat n _ => n

/-- A word's bits, numbered as the table numbers them. -/
def wordBits : InWord → BitVec 30
  | .segIn w => w.setWidth 30
  | .selIn w => w.setWidth 30
  | .compose w => w.setWidth 30
  | .frame w => w.setWidth 30
  | .event w => w
  | .noFormat _ w => BitVec.ofNat 30 w

/-- The width, mask and match of an operation's row. -/
def row : Instr → Nat × BitVec 30 × BitVec 30
  | .segenc _ _ => (5, 0x00, 0x00)
  | .digsel _ => (2, 0x0, 0x0)
  | .composeTime _ _ => (17, 0x10000, 0x00000)
  | .composeVolt _ _ => (17, 0x10000, 0x10000)
  | .shiftout _ _ => (16, 0x0000, 0x0000)
  | .step _ _ _ => (30, 0x30000000, 0x00000000)
  | .tick => (30, 0x3FFFFFFF, 0x10000000)
  | .reset => (30, 0x3FFFFFFF, 0x20000000)

/-- The encoded word lies in the operation's row of the table. -/
def Statement (i : Instr) : Prop :=
  wordWidth (encode i) = (row i).1 ∧ wordBits (encode i) &&& (row i).2.1 = (row i).2.2

/-- The mode bit of a formatter word is bit 16 (R43). -/
theorem compose_bit16 (b : Bool) (s : BitVec 2) (v : BitVec 14) :
    (BitVec.ofBool b ++ s ++ v).getLsbD 16 = b := by
  rw [BitVec.getLsbD_append, BitVec.getLsbD_append]
  simp

/-- The kind bits of an event word are bits 29..28 (R45). -/
theorem event_kind (k : BitVec 2) (b : BitVec 1) (t : BitVec 13) (v : BitVec 14) (j : Nat) :
    (k ++ b ++ t ++ v).getLsbD (28 + j) = k.getLsbD j := by
  rw [BitVec.getLsbD_append, BitVec.getLsbD_append, BitVec.getLsbD_append]
  simp [show ¬ 28 + j < 14 by omega, show ¬ 28 + j - 14 < 13 by omega, show ¬ 28 + j - 14 - 13 < 1 by omega]
  congr 1
  omega

theorem segenc (d : BitVec 4) (p : Bool) : Statement (.segenc d p) := ⟨rfl, by simp [row]⟩

theorem digsel (p : BitVec 2) : Statement (.digsel p) := ⟨rfl, by simp [row]⟩

theorem composeTime (s : BitVec 2) (v : BitVec 14) : Statement (.composeTime s v) := by
  refine ⟨rfl, BitVec.eq_of_getLsbD_eq fun k hk => ?_⟩
  have h := compose_bit16 false s v
  simp only [encode, wordBits, row]
  interval_cases k <;> first | (simp; done) | simpa using h

theorem composeVolt (s : BitVec 2) (v : BitVec 14) : Statement (.composeVolt s v) := by
  refine ⟨rfl, BitVec.eq_of_getLsbD_eq fun k hk => ?_⟩
  have h := compose_bit16 true s v
  simp only [encode, wordBits, row]
  interval_cases k <;> first | (simp; done) | simpa using h

theorem shiftout (g e : Byte) : Statement (.shiftout g e) := ⟨rfl, by simp [row]⟩

theorem step (m : Mode) (t : BitVec 13) (v : BitVec 14) : Statement (.step m t v) := by
  refine ⟨rfl, BitVec.eq_of_getLsbD_eq fun k hk => ?_⟩
  have h₀ := event_kind 0#2 (BitVec.ofBool (modeBit m)) t v 0
  have h₁ := event_kind 0#2 (BitVec.ofBool (modeBit m)) t v 1
  simp only [encode, wordBits, row]
  interval_cases k <;> first | (simp; done) | simpa using h₀ | simpa using h₁

theorem tick : Statement .tick := ⟨rfl, by decide⟩

theorem reset : Statement .reset := ⟨rfl, by decide⟩

end Sys2Proof.Laws.TableRow
end

