-- ==== Sys2Proof/Laws/Trace.lean ====
section
/-! SUPPORT. Traces in two parts, the host's run one step at a time, and infinite runs in finite parts. -/

namespace Sys2Proof.Machine

/-- One step of the host's run. -/
theorem core_run_succ (n : Nat) (s : State) :
    Host.Core.run core (n + 1) s =
      match step s with
      | .next s' => Host.Core.run core n s'
      | .fault r => .fault r
      | .refused r => .refused r := by
  have h := Host.Core.run.eq_def core (n + 1) s
  simp only at h
  rw [h, show core.step s = step s from rfl]
  cases step s <;> rfl

/-- A trace in two parts. -/
theorem runTrace_append (xs ys : List Instr) (s : State) :
    runTrace (xs ++ ys) s =
      match runTrace xs s with
      | .next t => runTrace ys t
      | .fault r => .fault r
      | .refused r => .refused r := by
  induction xs generalizing s with
  | nil => rfl
  | cons x xs ih => simp only [List.cons_append, runTrace]; cases exec x s <;> simp [ih]

/-- The frames composed by the polls of a trace in two parts. -/
theorem pollFrames_append (xs ys : List Instr) (s : State) :
    pollFrames (xs ++ ys) s = pollFrames xs s ++
      match runTrace xs s with
      | .next t => pollFrames ys t
      | .fault _ => []
      | .refused _ => [] := by
  induction xs generalizing s with
  | nil => rfl
  | cons x xs ih => simp only [List.cons_append, pollFrames, runTrace]; cases exec x s <;> simp [ih]

/-- A count over a trace in two parts. -/
theorem countTrace_append (p : Instr → State → Bool) (xs ys : List Instr) (s : State) :
    countTrace p (xs ++ ys) s = countTrace p xs s +
      match runTrace xs s with
      | .next t => countTrace p ys t
      | .fault _ => 0
      | .refused _ => 0 := by
  induction xs generalizing s with
  | nil => simp [countTrace, runTrace]
  | cons x xs ih =>
    simp only [List.cons_append, countTrace, runTrace]
    cases exec x s <;> simp [ih]
    omega

/-- An event is never refused, and with `PH` in its range it does not stop (R84). -/
theorem exec_event_next (i : Instr) (s : State) (h : s.busy = true → s.ph.toNat ≤ 49) :
    ∃ t : State, exec i s = .next t := by
  cases he : exec i s with
  | next t => exact ⟨t, rfl⟩
  | fault r =>
    obtain ⟨_, _, hb, hk⟩ := exec_fault i s r he
    exact absurd (h hb) (Nat.not_le.mpr hk)
  | refused r => exact absurd he (exec_not_refused i s r)

/-- What comes from point `n` on is a run again. -/
theorem IsRun.drop {events : Nat → Instr} {states : Nat → State} (h : IsRun events states) (n : Nat) :
    IsRun (fun k => events (n + k)) (fun k => states (n + k)) := fun k => h (n + k)

/-- One more event at the end of a segment. -/
theorem eventsFrom_succ (events : Nat → Instr) (n k : Nat) :
    eventsFrom events n (k + 1) = eventsFrom events n k ++ [events (n + k)] := by
  simp [eventsFrom, List.range'_concat]

/-- A segment of a run is a trace, and takes the state at its start to the state at its end. -/
theorem IsRun.runTrace_eventsFrom {events : Nat → Instr} {states : Nat → State} (h : IsRun events states) (n k : Nat) :
    runTrace (eventsFrom events n k) (states n) = .next (states (n + k)) := by
  induction k with
  | zero => rfl
  | succ k ih =>
    rw [eventsFrom_succ, runTrace_append, ih]
    simp only [runTrace]
    rw [(h (n + k)).2]
    rfl

/-- A count over a segment of a run is at least 1 when some event of the segment is counted, and only then. -/
theorem IsRun.countTrace_eventsFrom {events : Nat → Instr} {states : Nat → State} (h : IsRun events states)
    (p : Instr → State → Bool) (n k : Nat) :
    1 ≤ countTrace p (eventsFrom events n k) (states n) ↔
      ∃ j : Nat, n ≤ j ∧ j < n + k ∧ p (events j) (states j) = true := by
  induction k with
  | zero => simp [eventsFrom, countTrace]; omega
  | succ k ih =>
    have hc : countTrace p [events (n + k)] (states (n + k)) = if p (events (n + k)) (states (n + k)) then 1 else 0 := by
      simp [countTrace, (h (n + k)).2]
    rw [eventsFrom_succ, countTrace_append, h.runTrace_eventsFrom]
    dsimp only
    rw [hc]
    constructor
    · intro hle
      by_cases hp : p (events (n + k)) (states (n + k)) = true
      · exact ⟨n + k, by omega, by omega, hp⟩
      · rw [if_neg hp] at hle
        obtain ⟨j, h1, h2, h3⟩ := ih.1 hle
        exact ⟨j, h1, by omega, h3⟩
    · rintro ⟨j, h1, h2, h3⟩
      by_cases hj : j = n + k
      · subst hj
        rw [if_pos h3]
        omega
      · have := ih.2 ⟨j, h1, by omega, h3⟩
        omega

/-- A segment of a run holds events only. -/
theorem IsRun.all_eventsFrom {events : Nat → Instr} {states : Nat → State} (h : IsRun events states) (n k : Nat) :
    (eventsFrom events n k).all isEvent = true := by
  simp [eventsFrom, List.all_eq_true, (h _).1]

/-- What recurs, recurs often enough: from every point, a long enough segment has it `m` times. -/
theorem InfinitelyOften.countP_eventsFrom {events : Nat → Instr} {p : Instr → Bool}
    (h : InfinitelyOften fun n => p (events n) = true) (n m : Nat) :
    ∃ k : Nat, m ≤ (eventsFrom events n k).countP p := by
  induction m with
  | zero => exact ⟨0, Nat.zero_le _⟩
  | succ m ih =>
    obtain ⟨k, hk⟩ := ih
    obtain ⟨j, hj, hp⟩ := h (n + k)
    obtain ⟨d, rfl⟩ : ∃ d, j = n + (k + d) := ⟨j - (n + k), by omega⟩
    have hmono : m ≤ (eventsFrom events n (k + d)).countP p := by
      refine hk.trans ((List.Sublist.map events ?_).countP_le)
      exact List.range'_sublist_right.mpr (by omega)
    refine ⟨k + d + 1, ?_⟩
    rw [eventsFrom_succ, List.countP_append]
    simp [hp]
    omega

/-- What holds at some point from `n` on has a first such point. -/
theorem exists_firstFrom (p : Nat → Prop) (n k : Nat) (hn : n ≤ k) (hp : p k) : ∃ j : Nat, FirstFrom p n j ∧ j ≤ k := by
  induction k using Nat.strong_induction_on with
  | _ k ih =>
    by_cases h : ∃ j, n ≤ j ∧ j < k ∧ p j
    · obtain ⟨j, h1, h2, h3⟩ := h
      obtain ⟨i, hi, hle⟩ := ih j h2 h1 h3
      exact ⟨i, hi, by omega⟩
    · exact ⟨k, ⟨hn, hp, fun j h1 h2 h3 => h ⟨j, h1, h2, h3⟩⟩, le_rfl⟩

end Sys2Proof.Machine
end

