-- ==== Sys2Proof/Tests/Slice0.lean ====
section
/-! SUPPORT. Tests with expected results from spec/95_test_vectors.md and the encodings of spec/30_encoding.md, and for
every statement with hypotheses a concrete input that meets them (`witness_<statement>`). -/

namespace Sys2Proof.Tests

open Sys2Proof Sys2Proof.Machine

/-- The next state of an outcome, if there is one. -/
def after (o : Host.Outcome State Fault Refusal) : Option State :=
  match o with
  | .next s => some s
  | .fault _ => none
  | .refused _ => none

/-- The reset state with the power-up draw of 95_test_vectors.md section 3. -/
def drawn : State := State.powerUp 0x1234 0xABCD

/-- A state with a refresh pending in slot `p`. -/
def pendingAt (p : BitVec 2) : State := { drawn with pend := true, slot := p }

/-- A state in the middle of frame 0xC0FE, before micro-step `k`. -/
def busyAt (k : BitVec 6) : State := { drawn with busy := true, ph := k, frame := 0xC0FE }

/-- A faulted state (95_test_vectors.md S11). -/
def faulted : State := { drawn with fault := .timeRange, faultMark := true }

/-! ### An infinite run for the witnesses: TICK and STEP in turn -/

/-- TICK at even places, a STEP with legal inputs at odd ones. -/
def tickAndStep (n : Nat) : Instr := if n % 2 = 0 then .tick else .step .time 0 0

/-- The states that a sequence of events leads through. -/
def statesFrom (events : Nat → Instr) (s : State) : Nat → State
  | 0 => s
  | n + 1 => (after (exec (events n) (statesFrom events s n))).getD s

/-- No fault, and `PH` in its range. -/
def Healthy (s : State) : Prop := s.fault = .none ∧ (s.busy = true → s.ph.toNat ≤ 49)

theorem tickAndStep_cases (n : Nat) : tickAndStep n = .tick ∨ tickAndStep n = .step .time 0 0 := by
  unfold tickAndStep
  split
  · exact .inl rfl
  · exact .inr rfl

theorem tickAndStep_fair : InfinitelyOften fun n => isStep (tickAndStep n) = true :=
  fun n => ⟨2 * n + 1, by omega, by simp [tickAndStep, isStep]⟩

theorem healthy_next (n : Nat) (s t : State) (h : Healthy s) (he : exec (tickAndStep n) s = .next t) : Healthy t := by
  rcases tickAndStep_cases n with hi | hi <;> rw [hi] at he
  · cases he
    exact h
  · simp only [exec, execStep] at he
    rcases stepArm_cases s with ⟨hf, ha⟩ | ⟨hf, hb, ha⟩ | ⟨hf, hb, hp, ha⟩ | ⟨hf, hb, hp, ha⟩ <;> rw [ha] at he
    · exact absurd h.1 hf
    · dsimp only [stepShift] at he
      cases hm : microStep s.ph.toNat s.frame with
      | none => rw [hm] at he; cases he
      | some x =>
        rw [hm] at he
        dsimp only at he
        split at he <;> rename_i hlt <;> cases he
        · refine ⟨by simpa using hf, fun _ => ?_⟩
          have := ph_succ s (by omega)
          simp only [advancePh_ph, lineWrite_ph]
          omega
        · exact ⟨by simpa using hf, by simp⟩
    · cases he
      rcases compose_cases s.segMap .time s.slot 0 0 with ⟨_, g, hg⟩ | ⟨hl, _⟩
      · unfold stepPoll
        rw [show compose s.segMap .time s.slot (BitVec.toNat 0) (BitVec.toNat 0) = .mask g from hg]
        exact ⟨hf, fun _ => by simp [startFrame]⟩
      · cases hl
    · cases he
      exact h

theorem tickAndStep_run (s : State) (h : Healthy s) :
    IsRun tickAndStep (statesFrom tickAndStep s) ∧ ∀ n : Nat, Healthy (statesFrom tickAndStep s n) := by
  have hnext : ∀ n, Healthy (statesFrom tickAndStep s n) →
      exec (tickAndStep n) (statesFrom tickAndStep s n) = .next (statesFrom tickAndStep s (n + 1)) := by
    intro n hn
    obtain ⟨t, ht⟩ := exec_event_next (tickAndStep n) _ hn.2
    rw [statesFrom, ht]
    rfl
  have hh : ∀ n, Healthy (statesFrom tickAndStep s n) := by
    intro n
    induction n with
    | zero => exact h
    | succ n ih => exact healthy_next n _ _ ih (hnext n ih)
  refine ⟨fun n => ⟨?_, hnext n (hh n)⟩, hh⟩
  rcases tickAndStep_cases n with hi | hi <;> rw [hi] <;> rfl

/-! ### Well-formedness: an ill-formed term for each check (R47) -/

theorem test_illformed_digit : (Instr.segenc 10 false).wellFormed = false := by decide
theorem test_illformed_time : (Instr.composeTime 3 6000).wellFormed = false := by decide
theorem test_illformed_volt : (Instr.composeVolt 0 10000).wellFormed = false := by decide
theorem test_illformed_step_time : (Instr.step .time 6000 0).wellFormed = false := by decide
theorem test_illformed_step_volt : (Instr.step .voltage 0 10000).wellFormed = false := by decide
theorem test_wellformed_ignored_input : (Instr.step .time 5999 16383).wellFormed = true := by decide

/-! ### The configuration check (R18, R19) -/

theorem test_check_default : Config.check defaultSegMap defaultSelMap = true := by decide
theorem test_check_refuses_lit_point : Config.checkSegMap (defaultSegMap.set 3 0x30) = false := by decide
theorem test_check_refuses_two_zero_bits : Config.checkSelMap (defaultSelMap.set 0 0xFC) = false := by decide
theorem test_check_refuses_repeated_position : Config.checkSelMap (defaultSelMap.set 3 0xFE) = false := by decide

/-! ### Decoding: words written out bit by bit from the pattern strings of R41 to R45 -/

/-- `pdddd`: p = 1, d = 1001. -/
theorem test_decode_segenc : decode (.segIn 0b11001#5) = .ok (.segenc 9 true) := by decide
/-- `pp`. -/
theorem test_decode_digsel : decode (.selIn 0b11#2) = .ok (.digsel 3) := by decide
/-- `0ssvvvvvvvvvvvvvv`: `COMPOSE TIME, 3, 5999` is 0x0D76F. -/
theorem test_decode_composeTime : decode (.compose 0x0D76F#17) = .ok (.composeTime 3 5999) := by decide
/-- `1ssvvvvvvvvvvvvvv`: `COMPOSE VOLT, 0, 1650` is 0x10672. -/
theorem test_decode_composeVolt : decode (.compose 0x10672#17) = .ok (.composeVolt 0 1650) := by decide
/-- `ggggggggeeeeeeee`. -/
theorem test_decode_shiftout : decode (.frame 0x24FD#16) = .ok (.shiftout 0x24 0xFD) := by decide
/-- `00mtttttttttttttvvvvvvvvvvvvvv`: `STEP TIME t=125` is 0x001F4000. -/
theorem test_decode_step : decode (.event 0x001F4000#30) = .ok (.step .time 125 0) := by decide
/-- `01` and 28 zeros. -/
theorem test_decode_tick : decode (.event 0b010000000000000000000000000000#30) = .ok .tick := by decide
/-- `10` and 28 zeros. -/
theorem test_decode_reset : decode (.event 0b100000000000000000000000000000#30) = .ok .reset := by decide
/-- Reserved words are rejected by name (R47). -/
theorem test_decode_reserved : decode (.event 0x30000000#30) = .rejected .reservedKind ∧
    decode (.event 0x10000001#30) = .rejected .reservedPayload ∧
    decode (.event 0x20000001#30) = .rejected .reservedPayload := by decide
/-- The table's bits in whole bytes. -/
theorem test_decodeTableWord : decodeTableWord 24 0x1E70F = some (.composeVolt 3 9999) ∧
    decodeTableWord 32 0x08000672 = some (.step .voltage 0 1650) ∧
    decodeTableWord 16 0xC0FE = some (.shiftout 0xC0 0xFE) ∧
    decodeTableWord 8 0x19 = some (.segenc 9 true) ∧ decodeTableWord 8 3 = some (.digsel 3) ∧
    decodeTableWord 32 0x30000000 = none := by decide

/-! ### Operations (95_test_vectors.md) -/

/-- E1: `SEGENC 2, 1` = 0x24. -/
theorem test_segenc : (after (exec (.segenc 2 true) drawn)).map (·.result) = some (some 0x24) := by decide
/-- Section 2.1: digit 10 gives `FAULT = 1` and no result. -/
theorem test_segenc_fault : (after (exec (.segenc 10 true) { drawn with result := some 0 })).map
    (fun s => (s.fault.code, s.faultMark, s.result)) = some (1#2, true, none) := by decide
/-- Section 2.2. -/
theorem test_digsel : (after (exec (.digsel 2) drawn)).map (·.result) = some (some 0xFB) := by decide
/-- `COMPOSE TIME, 1, 125` = 0x24. -/
theorem test_composeTime : (after (exec (.composeTime 1 125) drawn)).map (·.result) = some (some 0x24) := by decide
/-- 6000 s raises `TIME_RANGE` for slot 3 too. -/
theorem test_composeTime_fault : (after (exec (.composeTime 3 6000) drawn)).map (·.fault.code) = some 2#2 := by decide
/-- `COMPOSE VOLT, 0, 1650` = 0x79. -/
theorem test_composeVolt : (after (exec (.composeVolt 0 1650) drawn)).map (·.result) = some (some 0x79) := by decide
/-- mv = 1005, slot 3 shows 5. -/
theorem test_composeVolt_last : (after (exec (.composeVolt 3 1005) drawn)).map (·.result) = some (some 0x92) := by
  decide
/-- Section 2.4, after k = 49. -/
theorem test_shiftout : (after (exec (.shiftout 0xC0 0xFE) drawn)).map observe =
    some ⟨true, true, false, 0xC0FE⟩ := by decide
/-- Section 2.4, after k = 27: `SR = 0x6981`, `OUT` not yet changed. -/
theorem test_shiftout_partial : (writeLines ((frameWrites 0xC0FE).take 28) drawn).sr = 0x6981 ∧
    observe (writeLines ((frameWrites 0xC0FE).take 28) drawn) = ⟨false, true, true, 0xABCD⟩ := by decide
/-- S5: a poll in VOLTAGE mode, slot 2. -/
theorem test_step_poll : (after (exec (.step .voltage 0 1650) (pendingAt 2))).map
    (fun s => (s.pend, s.frame, s.busy, s.ph)) = some (false, 0x92FB, true, 0) := by decide
/-- S10: the commit wraps `SLOT` and copies `SR` to `OUT`. -/
theorem test_step_commit : (after (exec (.step .time 0 0) { busyAt 49 with slot := 3 })).map
    (fun s => (s.slot, s.busy, s.ph, s.lat, s.out)) = some (0, false, 0, true, 0x1234) := by decide
/-- S12: a tick while faulted. -/
theorem test_tick_faulted : (after (exec .tick faulted)).map (fun s => (s.pend, s.fault)) = some (true, .timeRange) := by
  decide
/-- S13: a reset in the middle of a frame keeps `SR` and `OUT`. -/
theorem test_reset_midframe : after (exec .reset { busyAt 20 with clk := true, slot := 2 }) = some drawn := by decide
/-- P5: the fault mark survives the reset. -/
theorem test_reset_keeps_mark : (after (exec .reset faulted)).map (fun s => (s.fault, s.faultMark)) =
    some (.none, true) := by decide
/-- R49, R50: RENDER is 51 events, FRAMECYCLE 4 × 52. -/
theorem test_pseudo_lengths : (expandLine (.render .bare)).length = 51 ∧
    (expandLine (.frameCycle (.time 125))).length = 208 := by
  simp [expandLine, frameCycleEvents, refreshEvents, renderEvents]
/-- Section 2.6: the reset pin 1,0,0,0,1,0 resets at samples 2 and 6 only. -/
theorem test_host_reset_samples : sampleResets resetPrevInitial [true] 4321 = 4321 ∧
    sampleResets resetPrevInitial [true, false] 4321 = 0 ∧ sampleResets false [false, false, true] 7 = 7 ∧
    sampleResets true [false] 7 = 0 := by decide
/-- Section 2.6: `MV_OF_F` at 0.5, 0.0005, 1/3, 3.1 and −0.1. -/
theorem test_host_mv : [mvOfFraction 1 2, mvOfFraction 5 10000, mvOfFraction 1 3, mvOfFraction 31 10, mvOfFraction (-1) 10]
    = [1650, 1, 1100, 9999, 0] := by decide
/-- R86. -/
theorem test_host_mode : modeOfPin false = .voltage ∧ modeOfPin true = .time := by decide

/-- A table that R19 allows, with the enables on bits 4 to 7 of the select mask. -/
def highSelMap : Config.SelMap := #v[0xEF, 0xDF, 0xBF, 0x7F]

/-- R108: the frame of slot 2 lights position 2 alone, also with a table other than the default. -/
theorem test_display_high : leftToRight.map (positionLit highSelMap (mkFrame 0x24 (readSelMap highSelMap 2))) =
    [false, false, true, false] := by decide
/-- R108, R16: `OUT` = 0x24FB shows a 2 with its point on position 2: segments a, b, d, e, g and dp. -/
theorem test_display_default : [Segment.a, .b, .c, .d, .e, .f, .g, .dp].map (segmentLit defaultSelMap 0x24FB 2) =
    [true, true, false, true, true, false, true, true] := by decide

/-! ### Witnesses: for each statement with hypotheses, inputs that meet them, at the boundaries of its clauses -/

theorem witness_EncodeOfDecode : decode (.segIn 0b11111#5) = .ok (.segenc 15 true) := by decide

theorem witness_EventKindTellsTheEvent : decode (.event 0#30) = .ok (.step .time 0 0) ∧
    decode (.event 0x10000000#30) = .ok .tick ∧ decode (.event 0x20000000#30) = .ok .reset := by decide

theorem witness_StepRunsDecodedOperation :
    ({ drawn with pending := [.event 0x10000000#30] } : State).pending = .event 0x10000000#30 :: [] ∧
    decode (.event 0x10000000#30) = .ok .tick := by decide

theorem witness_StepRefusesReservedWords :
    ({ drawn with pending := [.event 0x30000000#30] } : State).pending = .event 0x30000000#30 :: [] ∧
    (0x30000000#30).extractLsb' 28 2 = 3#2 ∧
    ((0x10000001#30).extractLsb' 28 2 = 1#2 ∧ (0x10000001#30).extractLsb' 0 28 ≠ 0#28) ∧
    ((0x2FFFFFFF#30).extractLsb' 28 2 = 2#2 ∧ (0x2FFFFFFF#30).extractLsb' 0 28 ≠ 0#28) := by decide

theorem witness_StepWithoutEventKeepsState : drawn.pending = [] := by decide

theorem witness_PresentedTableWordRunsNext : decodeTableWord 30 0x10000000 = some .tick ∧
    decodeTableWord 24 0x20000 = none := by decide

theorem witness_PresentedTraceRunsInOrder : drawn.pending = [] := by decide

theorem witness_SegencGivesEntryOrRaises : (9 < 10 ∧ Config.checkSegMap defaultSegMap = true) ∧ 10 ≤ 10 := by decide

theorem witness_DigselGivesOneHotEntry : Config.checkSelMap defaultSelMap = true := by decide

theorem witness_ComposeTimeGivesDigitOrRaises : 5999 ≤ 5999 ∧ 5999 < 6000 := by decide

theorem witness_ComposeVoltGivesDigitOrRaises : 9999 ≤ 9999 ∧ 9999 < 10000 := by decide

theorem witness_OperationsAloneReturnTheirMask :
    (9#4).toNat ≤ 9 ∧ (5999#14).toNat ≤ 5999 ∧ (9999#14).toNat ≤ 9999 := by decide

theorem witness_OperationsAloneRecordTheirFault :
    10 ≤ (10#4).toNat ∧ 5999 < (6000#14).toNat ∧ 9999 < (10000#14).toNat := by decide

theorem witness_DecimalPointRule : Config.checkSegMap defaultSegMap = true ∧
    compose defaultSegMap .time 1 125 0 = .mask 0x24 ∧ compose defaultSegMap .voltage 0 0 1650 = .mask 0x79 ∧
    compose defaultSegMap .time 0 125 0 = .mask 0xC0 := by decide

theorem witness_FormatterDigitsAreInRange : 5999 ≤ 5999 ∧ 9999 ≤ 9999 := by decide

theorem witness_EncodersDependOnlyOnOperandsAndTable : drawn.segMap = (busyAt 20).segMap ∧
    Instr.segenc 2 true = .segenc 2 true ∧ Instr.composeTime 0 5999 = .composeTime 0 5999 ∧
    Instr.composeVolt 0 9999 = .composeVolt 0 9999 := by decide

theorem witness_LegalOperandsNeverFault : (Instr.step .time 5999 0).wellFormed = true ∧
    after (exec (.step .time 5999 0) (pendingAt 0)) ≠ none ∧ Instr.step .time 5999 0 ≠ .reset := by decide

theorem witness_LineWritesMoveTheChainOnlyOnRises : (drawn.clk = false ∧ drawn.lat = false) ∧
    ({ drawn with clk := true, lat := true } : State).clk = true ∧
    ({ drawn with clk := true, lat := true } : State).lat = true ∧ 14 < 15 := by decide

theorem witness_MicroStepTable : 15 < 16 ∧ 49 < 50 := by decide

theorem witness_ShiftoutWritesAreTheMicroSteps : 49 < 50 := by decide

theorem witness_LatchLowDuringTheShift : (1 ≤ 1 ∧ 1 ≤ 49) ∧ (1 ≤ 49 ∧ 49 ≤ 49) := by decide

theorem witness_DataBeforeClock : 0 < 16 ∧ 15 < 16 ∧ 15 ≤ 15 := by decide

theorem witness_PollStartsFrameOrRaises :
    ((pendingAt 3).fault = .none ∧ (pendingAt 3).busy = false ∧ (pendingAt 3).pend = true) ∧
    (5999#13).toNat ≤ 5999 ∧ (9999#14).toNat ≤ 9999 ∧ 5999 < (6000#13).toNat ∧ 9999 < (10000#14).toNat := by decide

theorem witness_IdleStepKeepsState : drawn.fault = .none ∧ drawn.busy = false ∧ drawn.pend = false := by decide

theorem witness_ShiftStepRunsOneMicroStep : ((busyAt 48).fault = .none ∧ (busyAt 48).busy = true ∧
    (busyAt 48).ph.toNat < 49) ∧ ((busyAt 49).fault = .none ∧ (busyAt 49).busy = true ∧ (busyAt 49).ph.toNat = 49) := by
  decide

theorem witness_PhaseOutOfRangeStops :
    (busyAt 50).fault = .none ∧ (busyAt 50).busy = true ∧ 49 < (busyAt 50).ph.toNat := by decide

theorem witness_FaultHoldsUntilReset : faulted.fault ≠ .none ∧ [Instr.step .time 5 0, .tick].all isStepOrTick = true := by
  decide

theorem witness_SnapshotIsReadOnlyByPolls : stepArm (busyAt 3) ≠ .poll := by decide

theorem witness_PendIsSetByTickAndClearedByPollOrReset :
    (after (exec .tick drawn)).map (·.pend) = some true ∧ drawn.pend = false ∧
    (after (exec (.step .time 0 0) (pendingAt 0))).map (·.pend) = some false ∧ (pendingAt 0).pend = true := by decide

theorem witness_OutChangesOnlyByCommit : drawn.lat = false ∧ isEvent (.step .time 0 0) = true ∧
    (after (exec (.step .time 0 0) (busyAt 49))).map (·.out) = some 0x1234 ∧ (busyAt 49).out = 0xABCD := by decide

theorem witness_SlotAdvancesOnlyAtCommit : (after (exec (.step .time 0 0) (busyAt 49))).map (·.slot) = some 1 ∧
    isCommit (.step .time 0 0) (busyAt 49) = true ∧ Instr.step .time 0 0 ≠ .reset ∧
    after (exec .tick drawn) ≠ none ∧ isCommit .tick drawn = false := by decide

theorem witness_LinesAreWrittenOnlyBySerializerAndReset :
    (after (exec (.step .time 0 0) (busyAt 3))).map (fun t => (t.clk, t.sr)) = some (true, 0x2468) ∧
    (busyAt 3).clk = false ∧ (busyAt 3).sr = 0x1234 := by decide

theorem witness_TablesAreNeverWritten : after (step { drawn with pending := [.event 0#30] }) = some drawn := by decide

theorem witness_FaultRecordIsKept : (after (exec .tick faulted) ≠ none ∧ faulted.fault ≠ .none ∧
    Instr.tick ≠ .reset ∧ faulted.faultMark = true) ∧
    (after (exec (.segenc 15 false) drawn)).map (·.fault) = some .digitRange ∧ drawn.fault = .none := by decide

theorem witness_FrameIsWrittenOnlyByPollAndReset :
    (after (exec (.step .time 125 0) (pendingAt 0))).map (·.frame) = some 0xC0FE ∧ (pendingAt 0).frame = 0 := by decide

theorem witness_EveryStepKeepsTheInvariant : Inv { drawn with pending := [.event 0x10000000#30] } ∧
    after (step { drawn with pending := [.event 0x10000000#30] }) = some { drawn with pend := true } := by
  refine ⟨⟨rfl, ⟨?_, ?_, ?_, ?_, ?_, ?_, ?_⟩, ?_, ?_⟩, by decide⟩ <;> simp [drawn, State.powerUp]

theorem witness_NoStepFaultsUnderTheInvariant : Inv drawn ∧ ∀ n : Nat, isEvent (tickAndStep n) = true := by
  refine ⟨⟨rfl, ⟨?_, ?_, ?_, ?_, ?_, ?_, ?_⟩, ?_, ?_⟩, fun n => ?_⟩
  any_goals simp [drawn, State.powerUp]
  rcases tickAndStep_cases n with h | h <;> rw [h] <;> rfl

theorem witness_PhaseStaysInRange : after (exec (.step .time 0 0) (busyAt 48)) ≠ none ∧
    ((busyAt 48).busy = true → (busyAt 48).ph.toNat ≤ 49) ∧ ((busyAt 48).busy = false → (busyAt 48).ph = 0) := by decide

theorem witness_NoPartialFrameIsVisible : SerializerInv drawn ∧ [Instr.tick, .step .time 125 0].all isEvent = true ∧
    after (runTrace [.tick, .step .time 125 0] drawn) ≠ none := by
  refine ⟨⟨?_, ?_, ?_, ?_, ?_, ?_, ?_⟩, by decide, by decide⟩ <;> simp [drawn, State.powerUp]

theorem witness_FiftyStepsCommitTheFrame : (busyAt 0).fault = .none ∧ (busyAt 0).busy = true ∧ (busyAt 0).ph = 0 ∧
    (.tick :: List.replicate 50 (Instr.step .time 0 0)).all isStepOrTick = true ∧
    ((.tick :: List.replicate 50 (Instr.step .time 0 0)).filter isStep).length = 50 := by decide

theorem witness_RenderCommitsTheSlotsFrame : (drawn.fault = .none ∧ drawn.busy = false ∧ drawn.pend = false) ∧
    (pendingAt 1).fault = .none ∧ (pendingAt 1).busy = false ∧ (pendingAt 1).pend = true ∧
    inputsLegal .time 5999 0 = true ∧ inputsLegal .voltage 0 9999 = true := by decide

theorem witness_FrameCycleRendersFourSlots : drawn.fault = .none ∧ drawn.busy = false ∧
    inputsLegal .time (5999#13).toNat (0#14).toNat = true := by decide

theorem witness_CommitsNeverExceedPollsNorPollsTicks :
    [Instr.reset, .tick, .step .voltage 0 1650].all isEvent = true := by decide

/-- A state that meets the invariant and is about to commit. -/
def committing : State := { busyAt 49 with sr := 0xC0FE, clk := true }

theorem witness_SlotsCycleWithCommits :
    ([Instr.tick].all isStepOrTick = true ∧ after (runTrace [.tick] drawn) ≠ none) ∧
    Inv committing ∧ after (exec (.step .time 0 0) committing) ≠ none ∧
    isCommit (.step .time 0 0) committing = true := by
  refine ⟨by decide, ⟨rfl, ⟨by decide, by decide, by decide, by decide, by decide, by decide, ?_⟩, ?_, by decide⟩,
    by decide, by decide⟩
  · intro _ i hi
    have h : ∀ i, i < 16 → committing.sr.getLsbD i = committing.frame.getLsbD (16 - 16 + i) := by decide
    exact h i hi
  · intro _
    exact ⟨.time, 125, 0, 0xC0, by decide, by decide⟩

theorem witness_PendingRefreshIsPolled : ((busyAt 0).fault = .none ∧ (busyAt 0).busy = true ∧ (busyAt 0).ph.toNat ≤ 49 ∧
    (List.replicate 50 (Instr.step .time 0 0)).all isStepOrTick = true ∧
    50 ≤ (List.replicate 50 (Instr.step .time 0 0)).countP isStep) ∧
    (pendingAt 0).pend = true ∧ (pendingAt 0).fault = .none ∧ (pendingAt 0).busy = false ∧
    51 ≤ (List.replicate 51 (Instr.step .time 0 0)).countP isStep := by decide

/-- The infinite-run clauses: a fair run that starts busy and with a refresh pending. -/
theorem witness_PendingRefreshIsPolled_run :
    FairRun tickAndStep (statesFrom tickAndStep { busyAt 0 with pend := true }) ∧
    ({ busyAt 0 with pend := true } : State).fault = .none ∧ SerializerInv { busyAt 0 with pend := true } ∧
    ({ busyAt 0 with pend := true } : State).busy = true ∧ ({ busyAt 0 with pend := true } : State).pend = true := by
  refine ⟨⟨(tickAndStep_run _ ⟨rfl, by decide⟩).1, tickAndStep_fair⟩, rfl, ⟨?_, ?_, ?_, ?_, ?_, ?_, ?_⟩, rfl, rfl⟩ <;>
    simp [busyAt, drawn, State.powerUp, bitsShifted]

/-- With recurring TICKs: TICK and STEP in turn, from the reset state. -/
theorem witness_FairRunsCycleThroughPositions :
    FairRun tickAndStep (statesFrom tickAndStep drawn) ∧ Inv (statesFrom tickAndStep drawn 0) ∧
    (∀ n : Nat, tickAndStep n ≠ .reset ∧ (statesFrom tickAndStep drawn n).fault = .none) ∧ TicksRecur tickAndStep := by
  have hr := tickAndStep_run drawn ⟨rfl, by decide⟩
  refine ⟨⟨hr.1, tickAndStep_fair⟩, witness_NoStepFaultsUnderTheInvariant.1, fun n => ⟨?_, (hr.2 n).1⟩,
    fun n => ⟨2 * n, by omega, by simp [tickAndStep]⟩⟩
  rcases tickAndStep_cases n with h | h <;> rw [h] <;> decide

/-- Without TICKs: STEP for ever, from the reset state. -/
theorem witness_FairRunsCycleThroughPositions_idle :
    FairRun (fun _ => .step .time 0 0) (fun _ => drawn) ∧ Inv drawn ∧
    (∀ _ : Nat, Instr.step .time 0 0 ≠ .reset ∧ drawn.fault = .none) ∧ ∀ _ : Nat, Instr.step .time 0 0 ≠ .tick :=
  ⟨⟨fun _ => ⟨rfl, rfl⟩, fun n => ⟨n, le_rfl, rfl⟩⟩, witness_NoStepFaultsUnderTheInvariant.1, fun _ => by decide,
    fun _ => by decide⟩

theorem witness_FirstRenderAfterResetIsSlotZero : [Instr.step .time 8000 0].all isStep = true ∧
    inputsLegal .time (5999#13).toNat (0#14).toNat = true := by decide

theorem witness_CommittedFrameLightsOnePosition : Config.checkSelMap defaultSelMap = true ∧
    Config.checkSelMap highSelMap = true := by decide

theorem witness_HostTimeStaysInRange : 5998 ≠ 5999 ∧ 5999 ≤ 5999 := by decide

theorem witness_HostMillivoltsAreClamped : 0 < 10 ∧ (10 : Int) = ((10 : Nat) : Int) ∧ 10 ≤ 10 ∧ (-1 : Int) < 0 := by
  decide

end Sys2Proof.Tests
end

section
/-! SUPPORT. The statements of 10_state.md: the values at reset (R26), and the two constant tables (R27). -/

namespace Sys2Proof.Machine

/-! ### Reset -/

/-- Settles O35, by evaluation: `State.powerUp` writes each value of R26 out, and keeps the draw. -/
theorem resetStateValues : Obligations.ResetStateValues := by
  intro sr out
  exact ⟨rfl, rfl, rfl, rfl, rfl, rfl, rfl, rfl, rfl, rfl, rfl, rfl⟩

/-! ### What line writes, results and the register writes of RESET do to the tables -/

@[simp] theorem writeLines_segMap (xs : List (Line × Bool)) (s : State) : (writeLines xs s).segMap = s.segMap := by
  rw [writeLines_frame]

@[simp] theorem writeLines_selMap (xs : List (Line × Bool)) (s : State) : (writeLines xs s).selMap = s.selMap := by
  rw [writeLines_frame]

@[simp] theorem deliver_segMap (r : Mask) (s : State) : (deliver r s).segMap = s.segMap := by
  cases r <;> rfl

@[simp] theorem deliver_selMap (r : Mask) (s : State) : (deliver r s).selMap = s.selMap := by
  cases r <;> rfl

@[simp] theorem resetRegisters_segMap (s : State) : (resetRegisters s).segMap = s.segMap := rfl

@[simp] theorem resetRegisters_selMap (s : State) : (resetRegisters s).selMap = s.selMap := rfl

/-! ### The tables are never written -/

/-- No arm of STEP writes a table (R27, R76 to R80). -/
theorem execStep_tables (m : Mode) (a : BitVec 13) (v : BitVec 14) (s t : State) (h : execStep m a v s = .next t) :
    t.segMap = s.segMap ∧ t.selMap = s.selMap := by
  rcases execStep_cases m a v s t h with
    ⟨-, rfl⟩ | ⟨-, l, b, -, rfl⟩ | ⟨-, g, -, rfl⟩ | ⟨-, c, -, rfl⟩ | ⟨-, rfl⟩
  · exact ⟨rfl, rfl⟩
  · by_cases hph : s.ph.toNat < 49 <;> simp [hph]
  · simp
  · simp
  · exact ⟨rfl, rfl⟩

/-- No operation writes a table (R27). -/
theorem exec_tables (i : Instr) (s t : State) (h : exec i s = .next t) :
    t.segMap = s.segMap ∧ t.selMap = s.selMap := by
  rcases exec_cases i s t h with
    ⟨r, rfl, -⟩ | ⟨g, e, -, rfl⟩ | ⟨m, a, v, -, hstep⟩ | ⟨-, rfl⟩ | ⟨-, rfl⟩
  · simp
  · simp
  · exact execStep_tables m a v s t hstep
  · simp
  · simp

/-- Settles O41: a step without a word changes nothing, and no decoded operation writes a table (`exec_tables`). -/
theorem tablesAreNeverWritten : Obligations.TablesAreNeverWritten := by
  intro s t h
  rcases step_cases s t h with ⟨-, rfl⟩ | ⟨w, rest, i, -, -, hexec⟩
  · exact ⟨rfl, rfl⟩
  · exact exec_tables i { s with pending := rest } t hexec

end Sys2Proof.Machine
end

section
/-! SUPPORT. The statements of 40_segment_encoder.md on what the encoder and the formatter answer (R53 to R55). -/

namespace Sys2Proof.Machine

/-! ### The point bit of a mask -/

/-- Bit 7 of a mask says that the byte is at least 0x80. -/
theorem pointBit_iff_le_toNat (b : Byte) : b.getLsbD 7 = true ↔ 0x80 ≤ b.toNat := by
  have hmsb : b.getLsbD 7 = b.msb := (BitVec.msb_eq_getLsbD_last b).symm
  rw [hmsb, BitVec.msb_eq_true_iff_two_mul_ge]
  omega

/-- On a mask whose point bit is 1, clearing it is subtracting 0x80: both leave the low seven bits. -/
theorem and_0x7F_eq_sub_0x80 (b : Byte) (h : b.getLsbD 7 = true) : b &&& 0x7F = b - 0x80 := by
  have hle : 0x80 ≤ b.toNat := (pointBit_iff_le_toNat b).mp h
  have hand : (b &&& 0x7F).toNat = b.toNat % 128 := Nat.and_two_pow_sub_one_eq_mod b.toNat 7
  have hsub : (b - 0x80).toNat = b.toNat - 128 := BitVec.toNat_sub_of_le hle
  exact BitVec.eq_of_toNat_eq (by omega)

/-- Lighting the point keeps bits 0..6 and clears bit 7 (R53). -/
theorem getLsbD_and_0x7F (b : Byte) (k : Nat) : (b &&& 0x7F).getLsbD k = (b.getLsbD k && decide (k < 7)) := by
  have hmask : (0x7F : Byte).getLsbD k = decide (k < 7) := Nat.testBit_two_pow_sub_one 7 k
  rw [BitVec.getLsbD_and, hmask]

/-- R18: in a table that the check allows, every entry has the point dark. -/
theorem getLsbD_seven_of_checkSegMap (m : Config.SegMap) (hm : Config.checkSegMap m = true) (d : Nat) (h : d < 10) :
    m[d].getLsbD 7 = true :=
  List.all_eq_true.mp hm m[d] (Vector.mem_toList_iff.mpr (Vector.getElem_mem h))

/-- Settles O11: the two answers are the encoder's own lemmas, and R18 makes `&&& 0x7F` the subtraction of 0x80
(`and_0x7F_eq_sub_0x80`), whose bits are `getLsbD_and_0x7F`. -/
theorem segencGivesEntryOrRaises : Obligations.SegencGivesEntryOrRaises := by
  intro m d p
  refine ⟨segenc_of_lt m d p, segenc_of_ge m d p, fun h hm => ?_⟩
  have h7 : m[d].getLsbD 7 = true := getLsbD_seven_of_checkSegMap m hm d h
  rw [← and_0x7F_eq_sub_0x80 _ h7]
  refine ⟨h7, segenc_of_lt m d true h, fun k hk => ?_⟩
  rw [getLsbD_and_0x7F]
  by_cases hk7 : k = 7
  · subst hk7
    simp [h7]
  · have hlow : k < 7 := by omega
    simp [hlow, hk7]

/-! ### The formatter -/

/-- The encoder on a digit, with the table entry named (R53). -/
theorem segenc_entry (m : Config.SegMap) (d : Nat) (p : Bool) (h : d < 10) :
    ∃ g : Byte, m[d]? = some g ∧ segenc m d p = .mask (if p then g &&& 0x7F else g) :=
  ⟨m[d], Vector.getElem?_eq_getElem h, segenc_of_lt m d p h⟩

/-- COMPOSE TIME in range encodes the slot's digit (R54). -/
theorem composeTime_of_le (m : Config.SegMap) (s : BitVec 2) (t : Nat) (h : t ≤ 5999) :
    ∃ g : Byte, m[(timeDigit s t).1]? = some g ∧
      composeTime m s t = .mask (if (timeDigit s t).2 then g &&& 0x7F else g) := by
  rw [composeTime, Config.tMax, if_neg (Nat.not_lt.mpr h)]
  exact segenc_entry m _ _ (timeDigit_lt s t h)

/-- COMPOSE TIME out of range raises, whatever the slot (R54). -/
theorem composeTime_of_gt (m : Config.SegMap) (s : BitVec 2) (t : Nat) (h : 5999 < t) :
    composeTime m s t = .raises .timeRange :=
  if_pos h

/-- COMPOSE VOLT in range encodes the slot's digit (R55). -/
theorem composeVolt_of_le (m : Config.SegMap) (s : BitVec 2) (mv : Nat) (h : mv ≤ 9999) :
    ∃ g : Byte, m[(voltDigit s mv).1]? = some g ∧
      composeVolt m s mv = .mask (if (voltDigit s mv).2 then g &&& 0x7F else g) := by
  rw [composeVolt, Config.mvMax, if_neg (Nat.not_lt.mpr h)]
  exact segenc_entry m _ _ (voltDigit_lt s mv h)

/-- COMPOSE VOLT out of range raises, whatever the slot (R55). -/
theorem composeVolt_of_gt (m : Config.SegMap) (s : BitVec 2) (mv : Nat) (h : 9999 < mv) :
    composeVolt m s mv = .raises .mvRange :=
  if_pos h

/-- Settles O13: `composeTime_of_le` at each of the four slots, where `timeDigit` evaluates to R54's digit and point. -/
theorem composeTimeGivesDigitOrRaises : Obligations.ComposeTimeGivesDigitOrRaises := by
  intro m t
  refine ⟨fun h => ?_, fun h slot => composeTime_of_gt m slot t h⟩
  obtain ⟨a, ha, hslot0⟩ := composeTime_of_le m 0 t h
  obtain ⟨b, hb, hslot1⟩ := composeTime_of_le m 1 t h
  obtain ⟨c, hc, hslot2⟩ := composeTime_of_le m 2 t h
  obtain ⟨d, hd, hslot3⟩ := composeTime_of_le m 3 t h
  exact ⟨a, b, c, d, ha, hslot0, hb, hslot1, hc, hslot2, hd, hslot3⟩

/-- Settles O14: `composeVolt_of_le` at each of the four slots, where `voltDigit` evaluates to R55's digit and point. -/
theorem composeVoltGivesDigitOrRaises : Obligations.ComposeVoltGivesDigitOrRaises := by
  intro m mv
  refine ⟨fun h => ?_, fun h slot => composeVolt_of_gt m slot mv h⟩
  obtain ⟨a, ha, hslot0⟩ := composeVolt_of_le m 0 mv h
  obtain ⟨b, hb, hslot1⟩ := composeVolt_of_le m 1 mv h
  obtain ⟨c, hc, hslot2⟩ := composeVolt_of_le m 2 mv h
  obtain ⟨d, hd, hslot3⟩ := composeVolt_of_le m 3 mv h
  exact ⟨a, b, c, d, ha, hslot0, hb, hslot1, hc, hslot2, hd, hslot3⟩

end Sys2Proof.Machine
end

section
/-! SUPPORT. The statement of 41_digit_selector.md on the select masks (R61). -/

namespace Sys2Proof.Machine

/-! ### The place of a mask's only 0 bit -/

/-- Bit `z` is the only 0 bit of the mask `b` (R19). -/
def IsOnlyZero (b : Byte) (z : Nat) : Prop :=
  z < 8 ∧ ∀ k : Nat, k < 8 → (b.getLsbD k = false ↔ k = z)

/-- A mask that counts one 0 bit has a place for it: the list of its 0 places is a singleton. -/
theorem exists_isOnlyZero_of_zeroBits_eq_one (b : Byte) (h : Config.zeroBits b = 1) : ∃ z, IsOnlyZero b z := by
  obtain ⟨z, hz⟩ := List.length_eq_one_iff.mp h
  have hplaces : ∀ k, k < 8 ∧ b.getLsbD k = false ↔ k = z := fun k => by
    have hmem : k ∈ (List.range 8).filter (fun i => !b.getLsbD i) ↔ k = z := by rw [hz, List.mem_singleton]
    simpa using hmem
  exact ⟨z, ((hplaces z).mpr rfl).1, fun k hk => by simp [← hplaces k, hk]⟩

/-- The place of its only 0 bit determines a mask. -/
theorem eq_of_isOnlyZero (b c : Byte) (z : Nat) (hb : IsOnlyZero b z) (hc : IsOnlyZero c z) : b = c := by
  refine BitVec.eq_of_getLsbD_eq fun k hk => ?_
  have hsame : b.getLsbD k = false ↔ c.getLsbD k = false := (hb.2 k hk).trans (hc.2 k hk).symm
  exact Bool.eq_iff_iff.mpr (by simpa using not_congr hsame)

/-! ### The tables that R19 allows -/

/-- R19: in a table that the check allows, every entry has one 0 bit. -/
theorem zeroBits_readSelMap_of_checkSelMap (m : Config.SelMap) (hm : Config.checkSelMap m = true) (p : BitVec 2) :
    Config.zeroBits (readSelMap m p) = 1 := by
  obtain ⟨hall, -⟩ := (Bool.and_eq_true _ _).mp hm
  exact beq_iff_eq.mp (List.all_eq_true.mp hall _ (Vector.mem_toList_iff.mpr (Vector.getElem_mem p.isLt)))

/-- R19: in a table that the check allows, different positions have different entries. -/
theorem readSelMap_inj_of_checkSelMap (m : Config.SelMap) (hm : Config.checkSelMap m = true) (p q : BitVec 2)
    (h : readSelMap m p = readSelMap m q) : p = q := by
  obtain ⟨-, hpair⟩ := (Bool.and_eq_true _ _).mp hm
  have hnodup : m.toList.Nodup := of_decide_eq_true hpair
  exact BitVec.eq_of_toNat_eq (hnodup.getElem_inj_iff.mp h)

/-- Settles O12: the read is the table's entry by definition, every allowed entry has a place for its only 0 bit
(`exists_isOnlyZero_of_zeroBits_eq_one`), and two positions with the same place have the same entry
(`eq_of_isOnlyZero`), so they are one position (`readSelMap_inj_of_checkSelMap`). -/
theorem digselGivesOneHotEntry : Obligations.DigselGivesOneHotEntry := by
  intro m
  refine ⟨fun p => rfl, fun hm => ?_⟩
  choose z hz using fun p : BitVec 2 =>
    exists_isOnlyZero_of_zeroBits_eq_one _ (zeroBits_readSelMap_of_checkSelMap m hm p)
  refine ⟨z, fun p q hpq => ?_, hz⟩
  have hentry : readSelMap m p = readSelMap m q := eq_of_isOnlyZero _ _ (z q) (hpq ▸ hz p) (hz q)
  exact readSelMap_inj_of_checkSelMap m hm p q hentry

end Sys2Proof.Machine
end

section
/-! SUPPORT. The statement of 42_serializer.md on the micro-step table (R65). -/

namespace Sys2Proof.Machine

/-- Inside a frame's 48 bit writes, micro-step `1 + r + 3j` is write `r` of bit `j` (R64 and R65 agree): of
`microStep_cases`, only the case with remainder `r` is left, and its quotient is `j`. -/
theorem microStep_bit (w : Frame) (j r : Nat) (hj : j < 16) (hr : r < 3) :
    microStep (1 + r + 3 * j) w = (bitWrites w j)[r]? := by
  have hquot : (1 + r + 3 * j - 1) / 3 = j := by omega
  obtain ⟨h, -⟩ | ⟨-, -, h, hdat⟩ | ⟨-, -, h, hlow⟩ | ⟨-, -, h, hhigh⟩ | ⟨h, -⟩ | ⟨h, -⟩ :=
    microStep_cases (1 + r + 3 * j) w
  · omega
  · obtain rfl : r = 0 := by omega
    rw [hdat, hquot]
    rfl
  · obtain rfl : r = 1 := by omega
    exact hlow
  · obtain rfl : r = 2 := by omega
    exact hhigh
  · omega
  · omega

/-- R65 gives no micro-step above 49: every other case of `microStep_cases` bounds `k` by 49. -/
theorem microStep_eq_none_of_gt (w : Frame) (k : Nat) (hk : 49 < k) : microStep k w = none := by
  have h0 : k ≠ 0 := by omega
  have hlt : ¬ k < 49 := by omega
  have h49 : k ≠ 49 := by omega
  simpa [h0, hlt, h49, hk] using microStep_cases k w

/-- Settles O22: the two latch rows evaluate, `microStep_bit` gives the three rows of each bit, and
`microStep_eq_none_of_gt` the end of the table. -/
theorem microStepTable : Obligations.MicroStepTable := by
  intro w
  refine ⟨rfl, fun j hj => ⟨?dat, ?clkLow, ?clkHigh⟩, rfl, microStep_eq_none_of_gt w⟩
  case dat => exact microStep_bit w j 0 hj (by decide)
  case clkLow => exact microStep_bit w j 1 hj (by decide)
  case clkHigh => exact microStep_bit w j 2 hj (by decide)

end Sys2Proof.Machine
end

section
/-! SUPPORT. The statements of 43_sequencer.md on one event: TICK (R74) and the poll, idle and shift arms of STEP
(R75 to R79). -/

namespace Sys2Proof.Machine

/-- Settles O27, by evaluation: TICK's one write is `setPend`. -/
theorem tickSetsPendOnly : Obligations.TickSetsPendOnly := fun _ => rfl

/-! ### The arm that STEP takes (R75) -/

/-- A STEP while busy runs the serializer, whatever its snapshot. -/
theorem exec_step_of_busy (m : Mode) (t : BitVec 13) (v : BitVec 14) (s : State)
    (hfault : s.fault = .none) (hbusy : s.busy = true) : exec (.step m t v) s = stepShift s := by
  have harm : stepArm s = .shift := by simp [stepArm, hfault, hbusy]
  simp only [exec, execStep, harm]

/-- A STEP that is not busy and has a refresh pending polls. -/
theorem exec_step_of_pend (m : Mode) (t : BitVec 13) (v : BitVec 14) (s : State)
    (hfault : s.fault = .none) (hbusy : s.busy = false) (hpend : s.pend = true) :
    exec (.step m t v) s = .next (stepPoll m t v s) := by
  have harm : stepArm s = .poll := by simp [stepArm, hfault, hbusy, hpend]
  simp only [exec, execStep, harm]

/-- Settles O30: the state selects the idle arm, and `stepIdle` writes nothing. -/
theorem idleStepKeepsState : Obligations.IdleStepKeepsState := by
  intro m t v s hfault hbusy hpend
  have harm : stepArm s = .idle := by simp [stepArm, hfault, hbusy, hpend]
  simp only [exec, execStep, harm, stepIdle]

/-! ### The poll (R76) -/

/-- A poll whose input composes to a mask starts the slot's frame (R62, R76). -/
theorem stepPoll_of_mask (m : Mode) (t : BitVec 13) (v : BitVec 14) (s : State) (g : Byte)
    (h : compose s.segMap m s.slot t.toNat v.toNat = .mask g) :
    stepPoll m t v s =
      { s with pend := false, frame := g ++ readSelMap s.selMap s.slot, busy := true, ph := 0 } := by
  simp only [stepPoll, h, startFrame, clearPend]

/-- A poll whose input raises clears `PEND` and records the first fault (R76, R101). -/
theorem stepPoll_of_raises (m : Mode) (t : BitVec 13) (v : BitVec 14) (s : State) (c : FaultCode)
    (hfault : s.fault = .none) (h : compose s.segMap m s.slot t.toNat v.toNat = .raises c) :
    stepPoll m t v s = { s with pend := false, fault := c, faultMark := true } := by
  simp only [stepPoll, h, raiseFault, clearPend, hfault, if_true]

/-- Settles O29: in each mode the formatter gives a mask in range and that mode's fault out of range, and the poll
follows it (`stepPoll_of_mask`, `stepPoll_of_raises`). -/
theorem pollStartsFrameOrRaises : Obligations.PollStartsFrameOrRaises := by
  intro t v s hfault hbusy hpend
  simp only [exec_step_of_pend _ t v s hfault hbusy hpend]
  refine ⟨fun ht => ?timeFrame, fun hv => ?voltFrame, fun ht => ?timeFault, fun hv => ?voltFault⟩
  case timeFrame =>
    obtain ⟨g, -, hg⟩ := composeTime_of_le s.segMap s.slot t.toNat ht
    exact ⟨_, hg, congrArg _ (stepPoll_of_mask .time t v s _ hg)⟩
  case voltFrame =>
    obtain ⟨g, -, hg⟩ := composeVolt_of_le s.segMap s.slot v.toNat hv
    exact ⟨_, hg, congrArg _ (stepPoll_of_mask .voltage t v s _ hg)⟩
  case timeFault =>
    exact congrArg _ (stepPoll_of_raises .time t v s _ hfault (composeTime_of_gt s.segMap s.slot t.toNat ht))
  case voltFault =>
    exact congrArg _ (stepPoll_of_raises .voltage t v s _ hfault (composeVolt_of_gt s.segMap s.slot v.toNat hv))

/-! ### The serializer's micro-step (R78, R79) -/

/-- R65 has a micro-step at every phase up to 49: only the last case of `microStep_cases` has none. -/
theorem exists_microStep_of_le (k : Nat) (w : Frame) (hk : k ≤ 49) :
    ∃ (l : Line) (b : Bool), microStep k w = some (l, b) := by
  obtain ⟨-, h⟩ | ⟨-, -, -, h⟩ | ⟨-, -, -, h⟩ | ⟨-, -, -, h⟩ | ⟨-, h⟩ | ⟨hgt, -⟩ := microStep_cases k w
  · exact ⟨_, _, h⟩
  · exact ⟨_, _, h⟩
  · exact ⟨_, _, h⟩
  · exact ⟨_, _, h⟩
  · exact ⟨_, _, h⟩
  · omega

/-- Before the last micro-step, the line write is followed by the next phase (R78). -/
theorem stepShift_of_lt (s : State) (l : Line) (b : Bool) (hph : s.ph.toNat < 49)
    (h : microStep s.ph.toNat s.frame = some (l, b)) : stepShift s = .next (advancePh (lineWrite l b s)) := by
  simp only [stepShift, h, hph, if_true]

/-- The last micro-step raises the latch and completes the frame (R79). -/
theorem stepShift_of_eq (s : State) (hph : s.ph.toNat = 49) :
    stepShift s = .next (complete (lineWrite .lat true s)) := by
  have hmicro : microStep 49 s.frame = some (.lat, true) := rfl
  simp only [stepShift, hph, hmicro, lt_irrefl, if_false]

/-- Driving the latch high: `SR` is copied to `OUT` when the line rises, and nothing else moves (R107). -/
theorem lineWrite_lat_high (s : State) :
    lineWrite .lat true s = { s with lat := true, out := if s.lat then s.out else s.sr } := by
  cases hlat : s.lat <;> simp [lineWrite, hlat]

/-- The next phase, as a number (R78). -/
theorem advancePh_eq (s : State) : advancePh s = { s with ph := BitVec.ofNat 6 (s.ph.toNat + 1) } := by
  have hph : s.ph + 1 = BitVec.ofNat 6 (s.ph.toNat + 1) :=
    BitVec.eq_of_toNat_eq (by simp [BitVec.toNat_add])
  rw [advancePh, hph]

/-- The end of a frame, with the next slot as a number mod 4 (R79). -/
theorem complete_eq (s : State) :
    complete s = { s with busy := false, ph := 0, slot := BitVec.ofNat 2 ((s.slot.toNat + 1) % 4) } := by
  have hslot : s.slot + 1 = BitVec.ofNat 2 ((s.slot.toNat + 1) % 4) :=
    BitVec.eq_of_toNat_eq (by simp [BitVec.toNat_add])
  rw [complete, hslot]

/-- Settles O31: below 49 the micro-step exists and the next phase follows it (`advancePh_eq`); at 49 it
raises the latch (`lineWrite_lat_high`), and the end of the frame follows it (`complete_eq`). -/
theorem shiftStepRunsOneMicroStep : Obligations.ShiftStepRunsOneMicroStep := by
  intro m t v s hfault hbusy
  rw [exec_step_of_busy m t v s hfault hbusy]
  refine ⟨fun hlt => ?_, fun heq => ?_⟩
  · obtain ⟨l, b, hmicro⟩ := exists_microStep_of_le s.ph.toNat s.frame hlt.le
    refine ⟨l, b, hmicro, ?_⟩
    rw [stepShift_of_lt s l b hlt hmicro, advancePh_eq, lineWrite_ph]
  · rw [stepShift_of_eq s heq, complete_eq, lineWrite_lat_high]

end Sys2Proof.Machine
end

section
/-! SUPPORT. The statements of 44_host_sources.md: the elapsed time (R89, R90) and the reset button (R91). -/

namespace Sys2Proof.Machine

/-! ### The elapsed time -/

/-- Away from the last second, the tick adds one (R89). -/
theorem timeTick_of_ne (t : Nat) (h : t ≠ 5999) : timeTick t = t + 1 :=
  if_neg (by omega)

/-- After the last second, the tick wraps (R89). -/
@[simp] theorem timeTick_last : timeTick 5999 = 0 := rfl

/-- The tick keeps the range of R87. -/
theorem timeTick_le (t : Nat) (h : t ≤ 5999) : timeTick t ≤ 5999 := by
  obtain rfl | hne := eq_or_ne t 5999
  · simp
  · rw [timeTick_of_ne t hne]
    omega

/-- Settles O57: the two cases of the tick, the range they keep (`timeTick_le`), and the reset by its definition. -/
theorem hostTimeStaysInRange : Obligations.HostTimeStaysInRange :=
  fun t => ⟨timeTick_of_ne t, timeTick_last, timeTick_le t, rfl⟩

/-! ### The reset button -/

/-- The press itself: the released-to-pressed change resets (R91). -/
@[simp] theorem sampleReset_press (t : Nat) : sampleReset true false t = (false, 0) := rfl

/-- A sample after a pressed one is only remembered: no reset (R91). -/
@[simp] theorem sampleReset_after_pressed (pin : Bool) (t : Nat) : sampleReset false pin t = (pin, t) := rfl

/-- A list of samples is sampled one by one, the first sample first. -/
@[simp] theorem sampleResets_cons (prev pin : Bool) (pins : List Bool) (t : Nat) :
    sampleResets prev (pin :: pins) t =
      sampleResets (sampleReset prev pin t).1 pins (sampleReset prev pin t).2 := rfl

/-- A button that is already held does not reset again, however long it is held (R91). -/
theorem sampleResets_held (n t : Nat) : sampleResets false (List.replicate n false) t = t := by
  induction n with
  | zero => rfl
  | succ n ih => simp [List.replicate_succ, ih]

/-- A button pressed and then held resets at its first sample, and the held samples keep that 0 (R91). -/
theorem sampleResets_press_held (n t : Nat) : sampleResets true (List.replicate (n + 1) false) t = 0 := by
  rw [List.replicate_succ, sampleResets_cons, sampleReset_press]
  exact sampleResets_held n 0

/-- Settles O58: one sample and the first previous sample by their definitions, a press that is held by
`sampleResets_press_held`, and a button already held by `sampleResets_held`. -/
theorem hostResetOncePerPress : Obligations.HostResetOncePerPress :=
  fun _ _ t n => ⟨rfl, rfl, sampleResets_press_held n t, sampleResets_held n t⟩

end Sys2Proof.Machine
end

section
/-! SUPPORT. The statements of 60_exceptions.md on the chain: its shift (R106) and its commit (R107). -/

namespace Sys2Proof.Machine

/-! ### One line write (R32), by its line and level -/

/-- A `CLK` rise shifts `DAT` into `SR` (R106). -/
theorem lineWrite_clk_rise (s : State) (hclk : s.clk = false) :
    lineWrite .clk true s = { s with clk := true, sr := shiftIn s.sr s.dat } := by
  simp [lineWrite, hclk]

/-- A `LAT` rise copies `SR` to `OUT` (R107). -/
theorem lineWrite_lat_rise (s : State) (hlat : s.lat = false) :
    lineWrite .lat true s = { s with lat := true, out := s.sr } := by
  rw [lineWrite_lat_high, hlat]
  rfl

/-- Driving `CLK` low never shifts (R106). -/
theorem lineWrite_clk_low (s : State) : lineWrite .clk false s = { s with clk := false } := by
  simp [lineWrite]

/-- Driving `LAT` low never commits (R107). -/
theorem lineWrite_lat_low (s : State) : lineWrite .lat false s = { s with lat := false } := by
  simp [lineWrite]

/-- No level of `DAT` moves the chain (R32). -/
theorem lineWrite_dat_eq (b : Bool) (s : State) : lineWrite .dat b s = { s with dat := b } := by
  simp [lineWrite]

/-- A write of the level that `CLK` has is no edge (R106). -/
theorem lineWrite_clk_self (s : State) : lineWrite .clk s.clk s = s := by
  have hlevel : ¬ (s.clk = true ∧ s.clk = false) := by simp
  simp [lineWrite, hlevel]

/-- A write of the level that `LAT` has is no edge (R107). -/
theorem lineWrite_lat_self (s : State) : lineWrite .lat s.lat s = s := by
  have hlevel : ¬ (s.lat = true ∧ s.lat = false) := by simp
  simp [lineWrite, hlevel]

/-- Settles O21: each clause is the rule of its line and level; the bits after the shift are `shiftIn_getLsbD`. -/
theorem lineWritesMoveTheChainOnlyOnRises : Obligations.LineWritesMoveTheChainOnlyOnRises := by
  intro s
  refine ⟨fun hclk => ⟨_, lineWrite_clk_rise s hclk, ?lowBit, fun k hk => ?otherBits⟩,
    fun hclk => ?clkKept, lineWrite_clk_low s, lineWrite_lat_rise s, fun hlat => ?latKept, lineWrite_lat_low s,
    fun b => lineWrite_dat_eq b s, lineWrite_clk_self s, lineWrite_lat_self s, lineWrite_dat_eq s.dat s⟩
  case lowBit => exact shiftIn_getLsbD s.sr s.dat 0
  case otherBits =>
    have hk16 : k + 1 < 16 := by omega
    rw [shiftIn_getLsbD]
    simp [hk16]
  case clkKept => simpa only [hclk] using lineWrite_clk_self s
  case latKept => simpa only [hlat] using lineWrite_lat_self s

/-! ### What changes `OUT` -/

/-- A line write that changes `OUT` raises `LAT` (R107). -/
theorem lineWrite_out_ne (l : Line) (b : Bool) (s : State) (h : (lineWrite l b s).out ≠ s.out) :
    l = .lat ∧ b = true ∧ s.lat = false := by
  by_contra hrise
  exact h (if_neg hrise)

/-- Micro-step 49 is the only one that drives the latch high (R65). -/
theorem eq_49_of_microStep_lat_high (k : Nat) (w : Frame) (h : microStep k w = some (.lat, true)) : k = 49 := by
  obtain ⟨-, hk⟩ | ⟨-, -, -, hk⟩ | ⟨-, -, -, hk⟩ | ⟨-, -, -, hk⟩ | ⟨hk, -⟩ | ⟨-, hk⟩ := microStep_cases k w
  case inr.inr.inr.inr.inl => exact hk
  all_goals simp [hk] at h

/-- RESET's line writes only lower lines, so `OUT` stays (R120). -/
theorem writeLines_resetLines_out (s : State) : (writeLines resetLines (resetRegisters s)).out = s.out := by
  simp [resetLines, writeLines, resetRegisters]

/-- A STEP that changes `OUT` is the last micro-step of a frame, and `LAT` rises in it (R79, R107). -/
theorem execStep_out_ne (m : Mode) (a : BitVec 13) (v : BitVec 14) (s t : State)
    (h : execStep m a v s = .next t) (hout : t.out ≠ s.out) :
    stepArm s = .shift ∧ s.ph.toNat = 49 ∧ s.lat = false ∧ t = complete (lineWrite .lat true s) := by
  rcases execStep_cases m a v s t h with
    ⟨-, rfl⟩ | ⟨harm, l, b, hmicro, rfl⟩ | ⟨-, g, -, rfl⟩ | ⟨-, c, -, rfl⟩ | ⟨-, rfl⟩
  · exact absurd rfl hout
  · have hwrite : (lineWrite l b s).out ≠ s.out := by
      by_cases hph : s.ph.toNat < 49 <;> simpa only [hph, if_true, if_false, advancePh_out, complete_out] using hout
    obtain ⟨rfl, rfl, hlat⟩ := lineWrite_out_ne l b s hwrite
    have hph : s.ph.toNat = 49 := eq_49_of_microStep_lat_high _ _ hmicro
    exact ⟨harm, hph, hlat, if_neg hph.not_lt⟩
  · exact absurd rfl hout
  · exact absurd rfl hout
  · exact absurd rfl hout

/-- Settles O38: the rise is `lineWrite_lat_rise`; of the events, TICK and RESET keep `OUT`, and a STEP that changes it
is the commit (`execStep_out_ne`). -/
theorem outChangesOnlyByCommit : Obligations.OutChangesOnlyByCommit := by
  refine ⟨lineWrite_lat_rise, fun i s t hevent h hout => ?_⟩
  rcases exec_cases i s t h with
    ⟨r, -, hcomb, -⟩ | ⟨g, e, rfl, -⟩ | ⟨m, a, v, rfl, hstep⟩ | ⟨-, rfl⟩ | ⟨-, rfl⟩
  · simp [hcomb] at hevent
  · simp [isEvent] at hevent
  · obtain ⟨harm, hph, hlat, rfl⟩ := execStep_out_ne m a v s t hstep hout
    have hph49 : s.ph = 49#6 := BitVec.eq_of_toNat_eq hph
    rw [lineWrite_lat_rise s hlat]
    exact ⟨by simp [isCommit, isStep, harm, hph49], hlat, rfl, rfl, rfl⟩
  · exact absurd rfl hout
  · exact absurd (writeLines_resetLines_out s) hout

end Sys2Proof.Machine
end

section
/-! SUPPORT. The statement of 70_reset_and_hazards.md on the RESET event (R120). -/

namespace Sys2Proof.Machine

/-- RESET's line writes only lower the three lines: no edge shifts or commits the chain (R120). -/
theorem writeLines_resetLines (s : State) :
    writeLines resetLines s = { s with lat := false, clk := false, dat := false } := by
  simp only [resetLines, writeLines, lineWrite_lat_low, lineWrite_clk_low, lineWrite_dat_eq]

/-- Settles O34: the line writes lower the lines (`writeLines_resetLines`) after the register writes, which are R120's
by the definition of `resetRegisters`. -/
theorem resetEventSetsBlockRegisters : Obligations.ResetEventSetsBlockRegisters := by
  intro s
  simp only [exec, execReset, writeLines_resetLines, resetRegisters, clearFault]

end Sys2Proof.Machine
end

section
/-! SUPPORT. The statements of 30_encoding.md on words: decoding and encoding are inverse to each other, and exactly
the reserved event words are rejected (R41 to R48). -/

namespace Sys2Proof.Machine

/-! ### The fields of a word -/

@[simp] theorem modeOfBit_modeBit (m : Mode) : modeOfBit (modeBit m) = m := by
  cases m <;> rfl

@[simp] theorem modeBit_modeOfBit (b : Bool) : modeBit (modeOfBit b) = b := by
  cases b <;> rfl

/-- A mode bit of 0 stands for TIME (R23). -/
theorem eq_false_of_modeOfBit_time (b : Bool) (h : modeOfBit b = .time) : b = false := by
  rw [← modeBit_modeOfBit b, h, modeBit]

/-- A mode bit of 1 stands for VOLTAGE (R23). -/
theorem eq_true_of_modeOfBit_voltage (b : Bool) (h : modeOfBit b = .voltage) : b = true := by
  rw [← modeBit_modeOfBit b, h, modeBit]

/-- The fields of a formatter word (R43). -/
theorem composeWord_fields (b : Bool) (s : BitVec 2) (v : BitVec 14) :
    (BitVec.ofBool b ++ s ++ v).getLsbD 16 = b ∧ (BitVec.ofBool b ++ s ++ v).extractLsb' 14 2 = s ∧
      (BitVec.ofBool b ++ s ++ v).extractLsb' 0 14 = v := by
  refine ⟨Laws.TableRow.compose_bit16 b s v, ?slot, BitVec.extractLsb'_append_eq_right⟩
  case slot => rw [BitVec.extractLsb'_append_eq_of_le le_rfl, BitVec.extractLsb'_append_eq_right]

/-- The fields of a STEP word (R45). -/
theorem stepWord_fields (k : BitVec 2) (b : Bool) (t : BitVec 13) (v : BitVec 14) :
    (k ++ BitVec.ofBool b ++ t ++ v).extractLsb' 28 2 = k ∧ (k ++ BitVec.ofBool b ++ t ++ v).getLsbD 27 = b ∧
      (k ++ BitVec.ofBool b ++ t ++ v).extractLsb' 14 13 = t ∧
      (k ++ BitVec.ofBool b ++ t ++ v).extractLsb' 0 14 = v := by
  refine ⟨?kind, ?mode, ?time, BitVec.extractLsb'_append_eq_right⟩
  case kind =>
    rw [BitVec.extractLsb'_append_eq_of_le (by decide), BitVec.extractLsb'_append_eq_of_le (by decide),
      BitVec.extractLsb'_append_eq_of_le (by decide)]
    exact BitVec.extractLsb'_eq_self
  case mode =>
    rw [BitVec.getLsbD_append, BitVec.getLsbD_append, BitVec.getLsbD_append]
    simp
  case time => rw [BitVec.extractLsb'_append_eq_of_le le_rfl, BitVec.extractLsb'_append_eq_right]

/-! ### Decoding what was encoded -/

/-- A formatter word with mode bit 0 decodes to the COMPOSE TIME of its fields (R43). -/
theorem decodeCompose_timeWord (s : BitVec 2) (v : BitVec 14) :
    decodeCompose (BitVec.ofBool false ++ s ++ v) = .composeTime s v := by
  obtain ⟨hmode, hslot, hvalue⟩ := composeWord_fields false s v
  simp only [decodeCompose, hmode, hslot, hvalue, modeOfBit, Bool.false_eq_true, if_false]

/-- A formatter word with mode bit 1 decodes to the COMPOSE VOLT of its fields (R43). -/
theorem decodeCompose_voltWord (s : BitVec 2) (v : BitVec 14) :
    decodeCompose (BitVec.ofBool true ++ s ++ v) = .composeVolt s v := by
  obtain ⟨hmode, hslot, hvalue⟩ := composeWord_fields true s v
  simp only [decodeCompose, hmode, hslot, hvalue, modeOfBit, if_true]

/-- A word of kind 00 decodes to the STEP of its fields (R45). -/
theorem decodeEvent_stepWord (b : Bool) (t : BitVec 13) (v : BitVec 14) :
    decodeEvent (0#2 ++ BitVec.ofBool b ++ t ++ v) = .ok (.step (modeOfBit b) t v) := by
  obtain ⟨hkind, hmode, htime, hvalue⟩ := stepWord_fields 0#2 b t v
  simp only [decodeEvent, hkind, hmode, htime, hvalue]
  rfl

/-- Settles O1: each format's fields are read back where the encoder put them. -/
theorem decodeOfEncode : Obligations.DecodeOfEncode := by
  intro i
  cases i with
  | segenc d p =>
    have hdigit : (BitVec.ofBool p ++ d).extractLsb' 0 4 = d := BitVec.extractLsb'_append_eq_right
    have hpoint : (BitVec.ofBool p ++ d).getLsbD 4 = p := by rw [BitVec.getLsbD_append]; simp
    simp only [encode, decode, hdigit, hpoint]
  | digsel p => rfl
  | composeTime s v => exact congrArg Decoded.ok (decodeCompose_timeWord s v)
  | composeVolt s v => exact congrArg Decoded.ok (decodeCompose_voltWord s v)
  | shiftout g e =>
    have hsegments : (g ++ e).extractLsb' 8 8 = g := BitVec.extractLsb'_append_eq_left
    have hselect : (g ++ e).extractLsb' 0 8 = e := BitVec.extractLsb'_append_eq_right
    simp only [encode, decode, hsegments, hselect]
  | step m t v => simpa [encode, decode] using decodeEvent_stepWord (modeBit m) t v
  | tick => rfl
  | reset => rfl

/-! ### Encoding what was decoded -/

/-- A single bit of a word, read as a word of one bit. -/
theorem ofBool_getLsbD {n : Nat} (w : BitVec n) (k : Nat) : BitVec.ofBool (w.getLsbD k) = w.extractLsb' k 1 := by
  refine BitVec.eq_of_getLsbD_eq fun j hj => ?_
  obtain rfl : j = 0 := by omega
  simp

/-- A formatter word is put together again from its fields (R43). -/
theorem composeWord_eq (w : BitVec 17) :
    BitVec.ofBool (w.getLsbD 16) ++ w.extractLsb' 14 2 ++ w.extractLsb' 0 14 = w := by
  rw [ofBool_getLsbD, BitVec.extractLsb'_append_extractLsb'_eq_extractLsb' (show 16 = 14 + 2 from rfl),
    BitVec.extractLsb'_append_extractLsb'_eq_extractLsb' (show 14 = 0 + 14 from rfl)]
  exact BitVec.extractLsb'_eq_self

/-- An event word is put together again from its kind and the fields of STEP (R45). -/
theorem stepWord_eq (w : BitVec 30) :
    w.extractLsb' 28 2 ++ BitVec.ofBool (w.getLsbD 27) ++ w.extractLsb' 14 13 ++ w.extractLsb' 0 14 = w := by
  rw [ofBool_getLsbD, BitVec.extractLsb'_append_extractLsb'_eq_extractLsb' (show 28 = 27 + 1 from rfl),
    BitVec.extractLsb'_append_extractLsb'_eq_extractLsb' (show 27 = 14 + 13 from rfl),
    BitVec.extractLsb'_append_extractLsb'_eq_extractLsb' (show 14 = 0 + 14 from rfl)]
  exact BitVec.extractLsb'_eq_self

/-- An event word is put together again from its kind and its payload (R45). -/
theorem kind_append_payload (w : BitVec 30) : w.extractLsb' 28 2 ++ w.extractLsb' 0 28 = w := by
  rw [BitVec.extractLsb'_append_extractLsb'_eq_extractLsb' (show 28 = 0 + 28 from rfl)]
  exact BitVec.extractLsb'_eq_self

/-- No bit of a formatter word is dropped (R43). -/
theorem encode_decodeCompose (w : BitVec 17) : encode (decodeCompose w) = .compose w := by
  unfold decodeCompose
  split
  next h =>
    have hw := composeWord_eq w
    rw [eq_false_of_modeOfBit_time _ h] at hw
    exact congrArg InWord.compose hw
  next h =>
    have hw := composeWord_eq w
    rw [eq_true_of_modeOfBit_voltage _ h] at hw
    exact congrArg InWord.compose hw

/-- The event words that decode, each with its operation: STEP with any fields, TICK and RESET with payload 0
(R45, R47). -/
theorem decodeEvent_eq_ok (w : BitVec 30) (i : Instr) (h : decodeEvent w = .ok i) :
    (w.extractLsb' 28 2 = 0#2 ∧
      i = .step (modeOfBit (w.getLsbD 27)) (w.extractLsb' 14 13) (w.extractLsb' 0 14)) ∨
    (w.extractLsb' 28 2 = 1#2 ∧ w.extractLsb' 0 28 = 0#28 ∧ i = .tick) ∨
    (w.extractLsb' 28 2 = 2#2 ∧ w.extractLsb' 0 28 = 0#28 ∧ i = .reset) := by
  rcases decodeEvent_cases w with ⟨hkind, hw⟩ | ⟨hkind, hw⟩ | ⟨hkind, hw⟩ | ⟨hkind, hw⟩ <;> rw [hw] at h
  · exact .inl ⟨hkind, (Decoded.ok.inj h).symm⟩
  · split at h
    next hpayload => exact .inr (.inl ⟨hkind, hpayload, (Decoded.ok.inj h).symm⟩)
    next => cases h
  · split at h
    next hpayload => exact .inr (.inr ⟨hkind, hpayload, (Decoded.ok.inj h).symm⟩)
    next => cases h
  · cases h

/-- No bit of an event word that decodes is dropped (R45). -/
theorem encode_of_decodeEvent (w : BitVec 30) (i : Instr) (h : decodeEvent w = .ok i) : encode i = .event w := by
  obtain ⟨hkind, rfl⟩ | ⟨hkind, hpayload, rfl⟩ | ⟨hkind, hpayload, rfl⟩ := decodeEvent_eq_ok w i h
  · rw [encode, modeBit_modeOfBit, ← hkind, stepWord_eq]
  · rw [encode, ← hkind, ← hpayload, kind_append_payload]
  · rw [encode, ← hkind, ← hpayload, kind_append_payload]

/-- Settles O2: in each format, the fields that the decoder reads make up the word. -/
theorem encodeOfDecode : Obligations.EncodeOfDecode := by
  intro w i h
  cases w with
  | segIn w =>
    cases h
    rw [encode, ofBool_getLsbD, BitVec.extractLsb'_append_extractLsb'_eq_extractLsb' (show 4 = 0 + 4 from rfl)]
    exact congrArg InWord.segIn BitVec.extractLsb'_eq_self
  | selIn w =>
    cases h
    rfl
  | compose w =>
    cases h
    exact encode_decodeCompose w
  | frame w =>
    cases h
    rw [encode, BitVec.extractLsb'_append_extractLsb'_eq_extractLsb' (show 8 = 0 + 8 from rfl)]
    exact congrArg InWord.frame BitVec.extractLsb'_eq_self
  | event w => exact encode_of_decodeEvent w i h
  | noFormat n w => cases h

/-! ### The reserved words -/

/-- The kind bits, one by one (R45). -/
theorem eq_kind_iff (w : BitVec 30) (k : BitVec 2) :
    w.extractLsb' 28 2 = k ↔ w.getLsbD 29 = k.getLsbD 1 ∧ w.getLsbD 28 = k.getLsbD 0 := by
  constructor
  · rintro rfl
    simp
  · rintro ⟨hhigh, hlow⟩
    refine BitVec.eq_of_getLsbD_eq fun j hj => ?_
    obtain rfl | rfl : j = 0 ∨ j = 1 := by omega
    · simpa using hlow
    · simpa using hhigh

/-- The payload is 0 when each of its bits is (R45). -/
theorem payload_eq_zero_iff (w : BitVec 30) :
    w.extractLsb' 0 28 = 0#28 ↔ ∀ k : Nat, k < 28 → w.getLsbD k = false := by
  refine ⟨fun h k hk => ?_, fun h => BitVec.eq_of_getLsbD_eq fun k hk => ?_⟩
  · simpa [hk] using congrArg (BitVec.getLsbD · k) h
  · simpa [hk] using h k hk

/-- The reserved kind is rejected by its name, and nothing else is (R47). -/
theorem decodeEvent_reservedKind_iff (w : BitVec 30) :
    decodeEvent w = .rejected .reservedKind ↔ w.extractLsb' 28 2 = 3#2 := by
  rcases decodeEvent_cases w with ⟨hkind, hw⟩ | ⟨hkind, hw⟩ | ⟨hkind, hw⟩ | ⟨hkind, hw⟩ <;> rw [hw, hkind]
  · simp
  · split <;> simp
  · split <;> simp
  · simp

/-- A TICK or RESET word with a nonzero payload is rejected by its name, and nothing else is (R47). -/
theorem decodeEvent_reservedPayload_iff (w : BitVec 30) :
    decodeEvent w = .rejected .reservedPayload ↔
      (w.extractLsb' 28 2 = 1#2 ∨ w.extractLsb' 28 2 = 2#2) ∧ w.extractLsb' 0 28 ≠ 0#28 := by
  rcases decodeEvent_cases w with ⟨hkind, hw⟩ | ⟨hkind, hw⟩ | ⟨hkind, hw⟩ | ⟨hkind, hw⟩ <;> rw [hw, hkind]
  · simp
  · by_cases hpayload : w.extractLsb' 0 28 = 0#28 <;> simp [hpayload]
  · by_cases hpayload : w.extractLsb' 0 28 = 0#28 <;> simp [hpayload]
  · simp

/-- The other event words decode: STEP words, and TICK and RESET words with payload 0 (R45, R47). -/
theorem exists_decodeEvent_eq_ok_iff (w : BitVec 30) :
    (∃ i : Instr, decodeEvent w = .ok i) ↔
      w.extractLsb' 28 2 = 0#2 ∨
        (w.extractLsb' 28 2 = 1#2 ∨ w.extractLsb' 28 2 = 2#2) ∧ w.extractLsb' 0 28 = 0#28 := by
  rcases decodeEvent_cases w with ⟨hkind, hw⟩ | ⟨hkind, hw⟩ | ⟨hkind, hw⟩ | ⟨hkind, hw⟩ <;> rw [hw, hkind]
  · simp
  · by_cases hpayload : w.extractLsb' 0 28 = 0#28 <;> simp [hpayload]
  · by_cases hpayload : w.extractLsb' 0 28 = 0#28 <;> simp [hpayload]
  · simp

/-- The kinds of TICK and RESET are the two whose bits differ (R45). -/
theorem kind_tick_or_reset_iff (w : BitVec 30) :
    (w.extractLsb' 28 2 = 1#2 ∨ w.extractLsb' 28 2 = 2#2) ↔ w.getLsbD 29 ≠ w.getLsbD 28 := by
  rw [eq_kind_iff, eq_kind_iff]
  cases w.getLsbD 29 <;> cases w.getLsbD 28 <;> decide

/-- Settles O3: the three answers on an event word, with the kind and the payload read bit by bit; the other four
formats have no reserved word. -/
theorem rejectedWordsAreTheReservedOnes : Obligations.RejectedWordsAreTheReservedOnes := by
  refine ⟨fun w => ⟨?kind, ?payload, ?decodes⟩, fun w => ⟨_, rfl⟩, fun w => ⟨_, rfl⟩, fun w => ⟨_, rfl⟩,
    fun w => ⟨_, rfl⟩⟩
  case kind => exact (decodeEvent_reservedKind_iff w).trans (eq_kind_iff w 3#2)
  case payload =>
    rw [← kind_tick_or_reset_iff]
    refine (decodeEvent_reservedPayload_iff w).trans (and_congr_right fun _ => ?_)
    simp [payload_eq_zero_iff]
  case decodes =>
    rw [← kind_tick_or_reset_iff, ← payload_eq_zero_iff]
    exact (exists_decodeEvent_eq_ok_iff w).trans (or_congr_left (eq_kind_iff w 0#2))

/-- Settles O4: of the three kinds that decode, each is told apart from the others by its bits. -/
theorem eventKindTellsTheEvent : Obligations.EventKindTellsTheEvent := by
  intro w i h
  obtain ⟨hkind, rfl⟩ | ⟨hkind, -, rfl⟩ | ⟨hkind, -, rfl⟩ := decodeEvent_eq_ok w i h
  · simp [hkind, isStep]
  · simp [hkind, isStep]
  · simp [hkind, isStep]

/-- Settles O5, by evaluation: the words are fixed (95_test_vectors.md sections 2.1 to 2.5). -/
theorem writtenOutWordsDecode : Obligations.WrittenOutWordsDecode := by
  unfold Obligations.WrittenOutWordsDecode
  decide

end Sys2Proof.Machine
end

section
/-! SUPPORT. The statements on how a presented word is fetched and run (20_memory.md R38, 30_encoding.md R47). -/

namespace Sys2Proof.Machine

/-! ### One step on the first presented word -/

/-- A word that decodes is run on the state without it (R38). -/
theorem step_of_decode_ok (s : State) (w : InWord) (rest : List InWord) (i : Instr) (hpending : s.pending = w :: rest)
    (hdecode : decode w = .ok i) : step s = exec i { s with pending := rest } := by
  simp only [step, takeWord, hpending, hdecode]

/-- A word that the decoder rejects is refused by its name (R47). -/
theorem step_of_decode_rejected (s : State) (w : InWord) (rest : List InWord) (e : DecodeError)
    (hpending : s.pending = w :: rest) (hdecode : decode w = .rejected e) : step s = .refused (refusalOf e) := by
  simp only [step, takeWord, hpending, hdecode]

/-- Settles O6: `step_of_decode_ok`. -/
theorem stepRunsDecodedOperation : Obligations.StepRunsDecodedOperation := step_of_decode_ok

/-- Settles O7: a reserved word is rejected (`decodeEvent_reservedKind_iff`, `decodeEvent_reservedPayload_iff`), so the
step is refused under that name. -/
theorem stepRefusesReservedWords : Obligations.StepRefusesReservedWords := by
  intro s w rest hpending
  refine ⟨fun hkind => ?kind, fun htick hpayload => ?tick, fun hreset hpayload => ?reset⟩
  case kind => exact step_of_decode_rejected s _ rest _ hpending ((decodeEvent_reservedKind_iff w).mpr hkind)
  case tick =>
    exact step_of_decode_rejected s _ rest _ hpending
      ((decodeEvent_reservedPayload_iff w).mpr ⟨.inl htick, hpayload⟩)
  case reset =>
    exact step_of_decode_rejected s _ rest _ hpending
      ((decodeEvent_reservedPayload_iff w).mpr ⟨.inr hreset, hpayload⟩)

/-- Settles O8: without a word, `takeWord` has none and `noEvent` changes nothing. -/
theorem stepWithoutEventKeepsState : Obligations.StepWithoutEventKeepsState := by
  intro s hpending
  simp only [step, takeWord, hpending, noEvent]

/-- Settles O9: a presented word stands first, and what is left after it is the state it was presented to. -/
theorem presentedTableWordRunsNext : Obligations.PresentedTableWordRunsNext := by
  intro s nbits w
  cases hdecode : decode (tableWord nbits w) with
  | ok i =>
    have hstep : step (s.withFetchWord nbits w) = exec i s := step_of_decode_ok _ _ s.pending i rfl hdecode
    simp [decodeTableWord, hdecode, hstep]
  | rejected e =>
    have hstep : step (s.withFetchWord nbits w) = .refused (refusalOf e) :=
      step_of_decode_rejected _ _ s.pending e rfl hdecode
    simp [decodeTableWord, hdecode, hstep]

/-! ### A presented trace -/

/-- No operation writes the words still presented (log 3). -/
theorem exec_keeps_pending (i : Instr) (s t : State) (h : exec i s = .next t) : t.pending = s.pending := by
  have hsame := exec_pending i s s.pending
  rw [h] at hsame
  have hfixed : t = { t with pending := s.pending } := Host.Outcome.next.inj hsame
  exact (congrArg State.pending hfixed).trans rfl

/-- Settles O10, by induction on the trace: the step on an operation's own word is the operation (`decodeOfEncode`),
which neither reads nor writes the words behind it (`exec_pending`, `exec_keeps_pending`). -/
theorem presentedTraceRunsInOrder : Obligations.PresentedTraceRunsInOrder := by
  intro is
  induction is with
  | nil =>
    intro s hpending
    cases s
    cases hpending
    rfl
  | cons i is ih =>
    intro s hpending
    have hstep : step { s with pending := (i :: is).map encode } = exec i { s with pending := is.map encode } :=
      step_of_decode_ok _ _ _ i rfl (decodeOfEncode i)
    rw [List.length_cons, core_run_succ, hstep, exec_pending, runTrace]
    cases hexec : exec i s with
    | next t => exact ih t ((exec_keeps_pending i s t hexec).trans hpending)
    | fault r => rfl
    | refused r => rfl

end Sys2Proof.Machine
end

section
/-! SUPPORT. The statements of 40_segment_encoder.md on the encoder and the formatter used on their own (R53 to R58,
R61; logs 6, 8, 13). -/

namespace Sys2Proof.Machine

/-! ### What an operation used on its own delivers -/

theorem exec_segenc (d : BitVec 4) (p : Bool) (s : State) :
    exec (.segenc d p) s = .next (deliver (segenc s.segMap d.toNat p) s) := rfl

theorem exec_digsel (p : BitVec 2) (s : State) :
    exec (.digsel p) s = .next (deliver (.mask (readSelMap s.selMap p)) s) := rfl

theorem exec_composeTime (slot : BitVec 2) (v : BitVec 14) (s : State) :
    exec (.composeTime slot v) s = .next (deliver (composeTime s.segMap slot v.toNat) s) := rfl

theorem exec_composeVolt (slot : BitVec 2) (v : BitVec 14) (s : State) :
    exec (.composeVolt slot v) s = .next (deliver (composeVolt s.segMap slot v.toNat) s) := rfl

/-- Settles O15: a legal operand has a mask (`segenc_of_lt`, `composeTime_of_le`, `composeVolt_of_le`), and a mask is
delivered to `result` alone (`deliver_mask`). -/
theorem operationsAloneReturnTheirMask : Obligations.OperationsAloneReturnTheirMask := by
  intro s
  refine ⟨fun d p hd => ?segenc, fun p => exec_digsel p s, fun slot v hv => ?time, fun slot v hv => ?volt⟩
  case segenc =>
    have hmask := segenc_of_lt s.segMap d.toNat p (by omega)
    exact ⟨_, hmask, by rw [exec_segenc, hmask, deliver_mask]⟩
  case time =>
    obtain ⟨g, -, hmask⟩ := composeTime_of_le s.segMap slot v.toNat hv
    exact ⟨_, hmask, by rw [exec_composeTime, hmask, deliver_mask]⟩
  case volt =>
    obtain ⟨g, -, hmask⟩ := composeVolt_of_le s.segMap slot v.toNat hv
    exact ⟨_, hmask, by rw [exec_composeVolt, hmask, deliver_mask]⟩

/-- Settles O16: an illegal operand raises (`segenc_of_ge`, `composeTime_of_gt`, `composeVolt_of_gt`), and a raise is
delivered to the fault record (`deliver_raises`). -/
theorem operationsAloneRecordTheirFault : Obligations.OperationsAloneRecordTheirFault := by
  intro s
  refine ⟨fun d p hd => ?segenc, fun slot v hv => ?time, fun slot v hv => ?volt⟩
  case segenc => rw [exec_segenc, segenc_of_ge _ _ _ hd, deliver_raises, raiseFault]
  case time => rw [exec_composeTime, composeTime_of_gt _ _ _ hv, deliver_raises, raiseFault]
  case volt => rw [exec_composeVolt, composeVolt_of_gt _ _ _ hv, deliver_raises, raiseFault]

/-! ### The decimal point (R57) -/

/-- For a table that R18 allows, the encoder's mask has the point lit exactly when it was asked for (R53). -/
theorem segenc_point_iff (m : Config.SegMap) (d : Nat) (p : Bool) (g : Byte) (hm : Config.checkSegMap m = true)
    (h : segenc m d p = .mask g) : g.getLsbD 7 = false ↔ p = true := by
  rcases segenc_cases m d p with ⟨hd, hmask⟩ | ⟨-, hraise⟩
  · obtain rfl : (if p then m[d] &&& 0x7F else m[d]) = g := Mask.mask.inj (hmask.symm.trans h)
    have hdark : m[d].getLsbD 7 = true := getLsbD_seven_of_checkSegMap m hm d hd
    cases p
    · simp only [Bool.false_eq_true, if_false, hdark, Bool.true_eq_false]
    · simp only [if_true, getLsbD_and_0x7F, lt_irrefl, decide_false, Bool.and_false]
  · simp [hraise] at h

/-- In TIME mode the point is asked for on slot 1 (R54). -/
theorem timeDigit_point_iff (s : BitVec 2) (t : Nat) : (timeDigit s t).2 = true ↔ s = 1 := by
  rcases slot_cases s with rfl | rfl | rfl | rfl <;> simp [timeDigit]

/-- In VOLTAGE mode the point is asked for on slot 0 (R55). -/
theorem voltDigit_point_iff (s : BitVec 2) (mv : Nat) : (voltDigit s mv).2 = true ↔ s = 0 := by
  rcases slot_cases s with rfl | rfl | rfl | rfl <;> simp [voltDigit]

/-- A composed TIME mask is the encoder's for the slot's digit (R54). -/
theorem segenc_of_composeTime_mask (m : Config.SegMap) (s : BitVec 2) (t : Nat) (g : Byte)
    (h : composeTime m s t = .mask g) : segenc m (timeDigit s t).1 (timeDigit s t).2 = .mask g := by
  unfold composeTime at h
  split at h
  · cases h
  · exact h

/-- A composed VOLTAGE mask is the encoder's for the slot's digit (R55). -/
theorem segenc_of_composeVolt_mask (m : Config.SegMap) (s : BitVec 2) (mv : Nat) (g : Byte)
    (h : composeVolt m s mv = .mask g) : segenc m (voltDigit s mv).1 (voltDigit s mv).2 = .mask g := by
  unfold composeVolt at h
  split at h
  · cases h
  · exact h

/-- Settles O17: the mask is the encoder's, whose point is lit when asked for (`segenc_point_iff`), and each mode asks
for it on one slot. -/
theorem decimalPointRule : Obligations.DecimalPointRule := by
  intro m mode slot t v g hm h
  cases mode with
  | time =>
    rw [segenc_point_iff m _ _ g hm (segenc_of_composeTime_mask m slot t g h), timeDigit_point_iff]
    simp
  | voltage =>
    rw [segenc_point_iff m _ _ g hm (segenc_of_composeVolt_mask m slot v g h), voltDigit_point_iff]
    simp

/-! ### Digits in range (R58) -/

/-- The formatter in TIME mode never raises `DIGIT_RANGE` (R58). -/
theorem composeTime_ne_digitRange (m : Config.SegMap) (s : BitVec 2) (t : Nat) :
    composeTime m s t ≠ .raises .digitRange := by
  rcases le_or_gt t 5999 with h | h
  · obtain ⟨g, -, hmask⟩ := composeTime_of_le m s t h
    simp [hmask]
  · simp [composeTime_of_gt m s t h]

/-- The formatter in VOLTAGE mode never raises `DIGIT_RANGE` (R58). -/
theorem composeVolt_ne_digitRange (m : Config.SegMap) (s : BitVec 2) (mv : Nat) :
    composeVolt m s mv ≠ .raises .digitRange := by
  rcases le_or_gt mv 9999 with h | h
  · obtain ⟨g, -, hmask⟩ := composeVolt_of_le m s mv h
    simp [hmask]
  · simp [composeVolt_of_gt m s mv h]

/-- Settles O18: an in-range input gives a decimal digit (`timeDigit_lt`, `voltDigit_lt`) and so a mask; out of range
the mode's own fault comes first. -/
theorem formatterDigitsAreInRange : Obligations.FormatterDigitsAreInRange := by
  intro m slot n
  refine ⟨fun h => ⟨Nat.le_of_lt_succ (timeDigit_lt slot n h), ?time⟩,
    fun h => ⟨Nat.le_of_lt_succ (voltDigit_lt slot n h), ?volt⟩,
    composeTime_ne_digitRange m slot n, composeVolt_ne_digitRange m slot n⟩
  case time =>
    obtain ⟨g, -, hmask⟩ := composeTime_of_le m slot n h
    exact ⟨_, hmask⟩
  case volt =>
    obtain ⟨g, -, hmask⟩ := composeVolt_of_le m slot n h
    exact ⟨_, hmask⟩

/-! ### The encoder is pure (R56) -/

/-- What a delivery writes: the result and the fault record (R101; log 6). -/
theorem deliver_frame (r : Mask) (s : State) :
    deliver r s =
      { s with
        result := (deliver r s).result
        fault := (deliver r s).fault
        faultMark := (deliver r s).faultMark } := by
  cases r <;> rfl

/-- The result delivered does not depend on the state (log 6). -/
theorem deliver_result_congr (r : Mask) (s₁ s₂ : State) : (deliver r s₁).result = (deliver r s₂).result := by
  cases r <;> rfl

/-- Settles O19: each of the three delivers a mask that is a function of its operands and `SEG_MAP`. -/
theorem encodersDependOnlyOnOperandsAndTable : Obligations.EncodersDependOnlyOnOperandsAndTable := by
  intro i s₁ s₂ htable hi
  have hpure : ∃ r : Mask, exec i s₁ = .next (deliver r s₁) ∧ exec i s₂ = .next (deliver r s₂) := by
    obtain ⟨d, p, rfl⟩ | ⟨slot, v, rfl⟩ | ⟨slot, v, rfl⟩ := hi
    · exact ⟨_, exec_segenc d p s₁, by rw [exec_segenc, htable]⟩
    · exact ⟨_, exec_composeTime slot v s₁, by rw [exec_composeTime, htable]⟩
    · exact ⟨_, exec_composeVolt slot v s₁, by rw [exec_composeVolt, htable]⟩
  obtain ⟨r, h₁, h₂⟩ := hpure
  exact ⟨_, _, h₁, h₂, deliver_result_congr r s₁ s₂, deliver_frame r s₁, deliver_frame r s₂⟩

end Sys2Proof.Machine
end

section
/-! SUPPORT. The statements of 42_serializer.md on the line writes of one frame (R64 to R68). -/

namespace Sys2Proof.Machine

/-! ### The list of line writes is the micro-step table (R64, R65) -/

theorem length_flatMap_bitWrites (w : Frame) (n : Nat) : ((List.range n).flatMap (bitWrites w)).length = 3 * n := by
  induction n with
  | zero => rfl
  | succ n ih =>
    rw [List.range_succ, List.flatMap_append, List.length_append, ih]
    simp [bitWrites]
    omega

/-- Bit `j` has the three places from `3j` on (R64). -/
theorem getElem?_flatMap_bitWrites (w : Frame) (n j r : Nat) (hj : j < n) (hr : r < 3) :
    ((List.range n).flatMap (bitWrites w))[r + 3 * j]? = (bitWrites w j)[r]? := by
  induction n with
  | zero => omega
  | succ n ih =>
    rw [List.range_succ, List.flatMap_append, List.flatMap_singleton]
    have hlen := length_flatMap_bitWrites w n
    rcases Nat.lt_succ_iff_lt_or_eq.mp hj with hlt | rfl
    · rw [List.getElem?_append_left (by omega), ih hlt]
    · rw [List.getElem?_append_right (by omega), hlen, Nat.add_sub_cancel]

theorem length_frameWrites (w : Frame) : (frameWrites w).length = 50 := by
  rw [frameWrites, List.length_append, List.length_cons, length_flatMap_bitWrites, List.length_singleton]

/-- A frame's line writes are its micro-steps in order: the latch at both ends (R65), and `microStep_bit` between. -/
theorem getElem?_frameWrites (w : Frame) (k : Nat) (hk : k < 50) : (frameWrites w)[k]? = microStep k w := by
  have hlen := length_flatMap_bitWrites w 16
  rcases k with _ | k
  · rfl
  rw [frameWrites, List.cons_append, List.getElem?_cons_succ]
  rcases Nat.lt_or_ge k 48 with hlt | hge
  · obtain ⟨j, r, hr, hj, rfl⟩ : ∃ j r, r < 3 ∧ j < 16 ∧ k = r + 3 * j := ⟨k / 3, k % 3, by omega, by omega, by omega⟩
    rw [List.getElem?_append_left (by omega), getElem?_flatMap_bitWrites w 16 j r hj hr, ← microStep_bit w j r hj hr]
    congr 1
    omega
  · obtain rfl : k = 48 := by omega
    rw [List.getElem?_append_right (by omega), hlen]
    rfl

/-- Settles O23: `length_frameWrites` and `getElem?_frameWrites`. -/
theorem shiftoutWritesAreTheMicroSteps : Obligations.ShiftoutWritesAreTheMicroSteps :=
  fun w => ⟨length_frameWrites w, getElem?_frameWrites w⟩

/-- One more line write of a frame is the next micro-step (R65). -/
theorem writeLines_take_succ (w : Frame) (s : State) (k : Nat) (l : Line) (b : Bool) (hk : k < 50)
    (h : microStep k w = some (l, b)) :
    writeLines ((frameWrites w).take (k + 1)) s = lineWrite l b (writeLines ((frameWrites w).take k) s) := by
  rw [List.take_add_one, getElem?_frameWrites w k hk, h, writeLines_append]
  rfl

/-! ### How far a frame has been shifted out -/

/-- The lines and the chain when the next micro-step of frame `w` is `k` (R66, R67, R34): what `SerializerInv` says of a
busy state. -/
structure ShiftProgress (k : Nat) (w : Frame) (s : State) : Prop where
  latchLow : 1 ≤ k → s.lat = false
  dataReady : 1 ≤ k → (k - 1) % 3 ≠ 0 → s.dat = w.getLsbD (15 - bitsShifted k)
  clockLow : 1 ≤ k → (k - 1) % 3 = 2 → s.clk = false
  shifted : ∀ i : Nat, i < bitsShifted k → s.sr.getLsbD i = w.getLsbD (16 - bitsShifted k + i)

/-- Before micro-step 0 nothing is asked of the lines or the chain. -/
theorem ShiftProgress.zero (w : Frame) (s : State) : ShiftProgress 0 w s :=
  ⟨fun h => by omega, fun h => by omega, fun h => by omega, fun i hi => by simp [bitsShifted] at hi⟩

/-- Only the clock's rise adds a bit: within the three micro-steps of a bit the count stays (R65). -/
theorem bitsShifted_succ (k : Nat) (hk : 1 ≤ k) :
    bitsShifted (k + 1) = if (k - 1) % 3 = 2 then bitsShifted k + 1 else bitsShifted k := by
  unfold bitsShifted
  split <;> omega

/-- The rise of `CLK` puts the bit that `DAT` holds below the bits already sent (R34, R106). -/
theorem ShiftProgress.clockRise {k : Nat} {w : Frame} {s : State} (h : ShiftProgress k w s) (hk : 1 ≤ k)
    (hlt : k < 49) (hrise : (k - 1) % 3 = 2) : ShiftProgress (k + 1) w (lineWrite .clk true s) := by
  have hclk : s.clk = false := h.clockLow hk hrise
  have hbits : bitsShifted (k + 1) = bitsShifted k + 1 := by rw [bitsShifted_succ k hk, if_pos hrise]
  have hroom : bitsShifted k < 16 := by unfold bitsShifted; omega
  rw [lineWrite_clk_rise s hclk]
  refine ⟨fun _ => h.latchLow hk, fun _ hne => by omega, fun _ heq => by omega, fun i hi => ?_⟩
  rw [hbits] at hi ⊢
  rw [shiftIn_getLsbD]
  rcases i with _ | i
  · rw [if_pos rfl, h.dataReady hk (by omega)]
    congr 1
    omega
  · have hi16 : i + 1 < 16 := by omega
    simp only [Nat.add_one_ne_zero, if_false, hi16, decide_true, Bool.true_and, Nat.add_sub_cancel]
    rw [h.shifted i (by omega)]
    congr 1
    omega

/-- Every micro-step but the last carries the frame one phase on (R65). -/
theorem ShiftProgress.next {k : Nat} {w : Frame} {s : State} {l : Line} {b : Bool} (h : ShiftProgress k w s)
    (hk : k < 49) (hmicro : microStep k w = some (l, b)) : ShiftProgress (k + 1) w (lineWrite l b s) := by
  rcases microStep_cases k w with
    ⟨rfl, hm⟩ | ⟨h1, -, hr, hm⟩ | ⟨h1, -, hr, hm⟩ | ⟨h1, -, hr, hm⟩ | ⟨rfl, -⟩ | ⟨hgt, -⟩
  · obtain ⟨rfl, rfl⟩ : Line.lat = l ∧ false = b := by simpa [hm] using hmicro
    exact ⟨fun _ => rfl, fun _ hne => absurd rfl hne, fun _ heq => by omega, fun i hi => by simp [bitsShifted] at hi⟩
  · obtain ⟨rfl, rfl⟩ : Line.dat = l ∧ w.getLsbD (15 - (k - 1) / 3) = b := by simpa [hm] using hmicro
    have hbits : bitsShifted (k + 1) = bitsShifted k := by rw [bitsShifted_succ k h1, if_neg (by omega)]
    rw [lineWrite_dat_eq]
    exact ⟨fun _ => h.latchLow h1, fun _ _ => by rw [hbits, bitsShifted], fun _ heq => by omega,
      fun i hi => by rw [hbits] at hi ⊢; exact h.shifted i hi⟩
  · obtain ⟨rfl, rfl⟩ : Line.clk = l ∧ false = b := by simpa [hm] using hmicro
    have hbits : bitsShifted (k + 1) = bitsShifted k := by rw [bitsShifted_succ k h1, if_neg (by omega)]
    rw [lineWrite_clk_low]
    exact ⟨fun _ => h.latchLow h1, fun _ _ => by rw [hbits]; exact h.dataReady h1 (by omega), fun _ _ => rfl,
      fun i hi => by rw [hbits] at hi ⊢; exact h.shifted i hi⟩
  · obtain ⟨rfl, rfl⟩ : Line.clk = l ∧ true = b := by simpa [hm] using hmicro
    exact h.clockRise h1 hk hr
  · omega
  · omega

/-- The first `k` line writes of a frame bring it to phase `k`, from any state. -/
theorem shiftProgress_writeLines_take (w : Frame) (s : State) (k : Nat) (hk : k ≤ 49) :
    ShiftProgress k w (writeLines ((frameWrites w).take k) s) := by
  induction k with
  | zero => exact .zero w _
  | succ k ih =>
    obtain ⟨l, b, hmicro⟩ := exists_microStep_of_le k w (by omega)
    rw [writeLines_take_succ w s k l b (by omega) hmicro]
    exact (ih (by omega)).next hk hmicro

/-- At micro-step 49 the chain holds the whole frame (R68). -/
theorem ShiftProgress.sr_eq {w : Frame} {s : State} (h : ShiftProgress 49 w s) : s.sr = w := by
  refine BitVec.eq_of_getLsbD_eq fun i hi => ?_
  simpa [bitsShifted] using h.shifted i hi

/-! ### The latch, the data line and the end of the frame -/

/-- Before the last write of a frame no write raises the latch, so `OUT` stays (R67). -/
theorem writeLines_take_out (w : Frame) (s : State) (k : Nat) (hk : k ≤ 49) :
    (writeLines ((frameWrites w).take k) s).out = s.out := by
  induction k with
  | zero => rfl
  | succ k ih =>
    obtain ⟨l, b, hmicro⟩ := exists_microStep_of_le k w (by omega)
    rw [writeLines_take_succ w s k l b (by omega) hmicro, ← ih (by omega)]
    by_contra hout
    obtain ⟨rfl, rfl, -⟩ := lineWrite_out_ne l b _ hout
    have hlast := eq_49_of_microStep_lat_high k w hmicro
    omega

/-- The last line write of a frame raises the latch (R65). -/
theorem writeLines_frameWrites_eq (w : Frame) (s : State) :
    writeLines (frameWrites w) s = lineWrite .lat true (writeLines ((frameWrites w).take 49) s) := by
  rw [← writeLines_take_succ w s 49 .lat true (by decide) rfl, List.take_of_length_le (length_frameWrites w).le]

/-- Settles O25: until the last write the latch is low (`ShiftProgress.latchLow`) and `OUT` stays
(`writeLines_take_out`); the last write is micro-step 49. -/
theorem latchLowDuringTheShift : Obligations.LatchLowDuringTheShift := by
  intro w s
  refine ⟨fun k h1 hk => ⟨(shiftProgress_writeLines_take w s k hk).latchLow h1, writeLines_take_out w s k hk⟩,
    getElem?_frameWrites w 49 (by decide), ?_⟩
  rw [writeLines_frameWrites_eq]
  rfl

/-- Settles O26: before the rise of bit `j` the frame is at phase `3 + 3j`, and after it at phase `4 + 3j`. -/
theorem dataBeforeClock : Obligations.DataBeforeClock := by
  intro w s j hj
  have hbefore := shiftProgress_writeLines_take w s (3 + 3 * j) (by omega)
  have hafter := shiftProgress_writeLines_take w s (4 + 3 * j) (by omega)
  have hbits : bitsShifted (3 + 3 * j) = j ∧ bitsShifted (4 + 3 * j) = j + 1 := by unfold bitsShifted; omega
  refine ⟨hbefore.clockLow (by omega) (by omega), ?data, ?rise, fun k hk => ?sent⟩
  case data => rw [hbefore.dataReady (by omega) (by omega), hbits.1]
  case rise => exact (getElem?_frameWrites w _ (by omega)).trans (microStep_bit w j 2 hj (by decide))
  case sent =>
    rw [hafter.shifted k (by omega), hbits.2]
    congr 1
    omega

/-- The postcondition of a frame (R68): the whole frame is in the chain and on its outputs, latch and clock are high and
`DAT` still holds the frame's bit 0. -/
theorem writeLines_frameWrites (w : Frame) (s : State) :
    writeLines (frameWrites w) s = { s with lat := true, clk := true, dat := w.getLsbD 0, sr := w, out := w } := by
  have hbefore := shiftProgress_writeLines_take w s 48 (by decide)
  have hafter := shiftProgress_writeLines_take w s 49 (by decide)
  have hrise := writeLines_take_succ w s 48 .clk true (by decide) rfl
  have hdat : (writeLines ((frameWrites w).take 49) s).dat = w.getLsbD 0 := by
    rw [hrise]
    exact hbefore.dataReady (by decide) (by decide)
  have hclk : (writeLines ((frameWrites w).take 49) s).clk = true := by rw [hrise]; rfl
  rw [writeLines_frameWrites_eq, lineWrite_lat_rise _ (hafter.latchLow (by decide)), writeLines_frame, hdat, hclk,
    hafter.sr_eq]

/-- Settles O24: SHIFTOUT's writes are those of the frame `g ‖ e` (`writeLines_frameWrites`), whose bit 0 is the select
mask's. -/
theorem shiftoutPostcondition : Obligations.ShiftoutPostcondition := by
  intro g e s
  rw [← mkFrame_low g e 0 (by decide)]
  exact congrArg Host.Outcome.next (writeLines_frameWrites (mkFrame g e) s)

end Sys2Proof.Machine
end

section
/-! SUPPORT. What one operation does to the state, as a relation with one case per effect, and the statements on single
operations that follow from it (43_sequencer.md R74 to R80, 60_exceptions.md R101, R105, 70_reset_and_hazards.md). -/

namespace Sys2Proof.Machine

/-! ### The conditions of a poll and of a commit (R75) -/

theorem stepArm_eq_poll_iff (s : State) :
    stepArm s = .poll ↔ s.fault = .none ∧ s.busy = false ∧ s.pend = true := by
  rcases stepArm_cases s with ⟨hf, ha⟩ | ⟨hf, hb, ha⟩ | ⟨hf, hb, hp, ha⟩ | ⟨hf, hb, hp, ha⟩ <;> simp [*]

theorem stepArm_eq_shift_iff (s : State) : stepArm s = .shift ↔ s.fault = .none ∧ s.busy = true := by
  rcases stepArm_cases s with ⟨hf, ha⟩ | ⟨hf, hb, ha⟩ | ⟨hf, hb, hp, ha⟩ | ⟨hf, hb, hp, ha⟩ <;> simp [*]

theorem stepArm_eq_idle_iff (s : State) :
    stepArm s = .idle ↔ s.fault = .none ∧ s.busy = false ∧ s.pend = false := by
  rcases stepArm_cases s with ⟨hf, ha⟩ | ⟨hf, hb, ha⟩ | ⟨hf, hb, hp, ha⟩ | ⟨hf, hb, hp, ha⟩ <;> simp [*]

theorem stepArm_eq_stuck_iff (s : State) : stepArm s = .stuck ↔ s.fault ≠ .none := by
  rcases stepArm_cases s with ⟨hf, ha⟩ | ⟨hf, hb, ha⟩ | ⟨hf, hb, hp, ha⟩ | ⟨hf, hb, hp, ha⟩ <;> simp [*]

/-- A poll is a STEP that is neither stuck nor busy and finds a refresh pending (R76). -/
theorem isPoll_iff (i : Instr) (s : State) :
    isPoll i s = true ↔ isStep i = true ∧ s.fault = .none ∧ s.busy = false ∧ s.pend = true := by
  simp [isPoll, stepArm_eq_poll_iff]

/-- A commit is a STEP that is busy at micro-step 49 (R79). -/
theorem isCommit_iff (i : Instr) (s : State) :
    isCommit i s = true ↔ isStep i = true ∧ s.fault = .none ∧ s.busy = true ∧ s.ph = 49#6 := by
  simp [isCommit, stepArm_eq_shift_iff, and_assoc]

@[simp] theorem isStep_step (m : Mode) (t : BitVec 13) (v : BitVec 14) : isStep (.step m t v) = true := rfl
@[simp] theorem isStep_tick : isStep .tick = false := rfl
@[simp] theorem isStep_reset : isStep .reset = false := rfl
@[simp] theorem isTick_step (m : Mode) (t : BitVec 13) (v : BitVec 14) : isTick (.step m t v) = false := rfl
@[simp] theorem isTick_tick : isTick .tick = true := rfl
@[simp] theorem isTick_reset : isTick .reset = false := rfl

@[simp] theorem isPoll_step (m : Mode) (a : BitVec 13) (v : BitVec 14) (s : State) :
    isPoll (.step m a v) s = decide (s.fault = .none ∧ s.busy = false ∧ s.pend = true) := by
  simp [isPoll, stepArm_eq_poll_iff]

@[simp] theorem isCommit_step (m : Mode) (a : BitVec 13) (v : BitVec 14) (s : State) :
    isCommit (.step m a v) s = decide (s.fault = .none ∧ s.busy = true ∧ s.ph = 49#6) := by
  simp [isCommit, stepArm_eq_shift_iff, Bool.and_assoc]

@[simp] theorem isPoll_tick (s : State) : isPoll .tick s = false := rfl
@[simp] theorem isPoll_reset (s : State) : isPoll .reset s = false := rfl
@[simp] theorem isCommit_tick (s : State) : isCommit .tick s = false := rfl
@[simp] theorem isCommit_reset (s : State) : isCommit .reset s = false := rfl

/-- Only a STEP polls. -/
theorem isPoll_of_not_isStep (i : Instr) (s : State) (h : isStep i = false) : isPoll i s = false := by
  simp [isPoll, h]

/-- Only a STEP commits. -/
theorem isCommit_of_not_isStep (i : Instr) (s : State) (h : isStep i = false) : isCommit i s = false := by
  simp [isCommit, h]

/-- A STEP is an event. -/
theorem isEvent_of_isStep (i : Instr) (h : isStep i = true) : isEvent i = true := by
  cases i with
  | step m t v => rfl
  | _ => cases h

/-- An operation used on its own is no STEP. -/
theorem not_isStep_of_not_isEvent (i : Instr) (h : isEvent i = false) : isStep i = false := by
  cases hstep : isStep i with
  | false => rfl
  | true => simp [isEvent_of_isStep i hstep] at h

/-! ### What a delivery leaves alone (R101; log 6) -/

@[simp] theorem deliver_slot (r : Mask) (s : State) : (deliver r s).slot = s.slot := by rw [deliver_frame]
@[simp] theorem deliver_pend (r : Mask) (s : State) : (deliver r s).pend = s.pend := by rw [deliver_frame]
@[simp] theorem deliver_busy (r : Mask) (s : State) : (deliver r s).busy = s.busy := by rw [deliver_frame]
@[simp] theorem deliver_ph (r : Mask) (s : State) : (deliver r s).ph = s.ph := by rw [deliver_frame]
@[simp] theorem deliver_frame_register (r : Mask) (s : State) : (deliver r s).frame = s.frame := by rw [deliver_frame]
@[simp] theorem deliver_sr (r : Mask) (s : State) : (deliver r s).sr = s.sr := by rw [deliver_frame]
@[simp] theorem observe_deliver (r : Mask) (s : State) : observe (deliver r s) = observe s := by
  rw [deliver_frame]
  rfl

/-- What a delivery does to the fault record: nothing, or the first fault is kept and the run is marked (R101). -/
theorem deliver_fault_cases (r : Mask) (s : State) :
    ((deliver r s).fault = s.fault ∧ (deliver r s).faultMark = s.faultMark) ∨
      ((s.fault ≠ .none → (deliver r s).fault = s.fault) ∧ (deliver r s).faultMark = true) := by
  cases r with
  | mask g => exact .inl ⟨rfl, rfl⟩
  | raises c => exact .inr ⟨fun h => by simp [h], rfl⟩

/-! ### The effect of an operation -/

/-- `Effect s i t`: from state `s`, operation `i` has the effect that leads to `t`. Each case carries the conditions
that select it. -/
inductive Effect (s : State) : Instr → State → Prop where
  /-- An operation used on its own delivers its mask or its fault (R53 to R55, R61; log 6). -/
  | delivers (i : Instr) (r : Mask) (hevent : isEvent i = false)
      (hlegal : i.wellFormed = true → ∃ g : Byte, r = .mask g) : Effect s i (deliver r s)
  /-- SHIFTOUT used on its own serializes its whole frame (R64, R68; log 7). -/
  | shiftsOut (g e : Byte) : Effect s (.shiftout g e)
      { s with lat := true, clk := true, dat := e.getLsbD 0, sr := g ++ e, out := g ++ e }
  /-- STEP.STUCK (R80; log 5). -/
  | stuck (m : Mode) (a : BitVec 13) (v : BitVec 14) (hfault : s.fault ≠ .none) : Effect s (.step m a v) s
  /-- STEP.IDLE (R77). -/
  | idle (m : Mode) (a : BitVec 13) (v : BitVec 14) (hfault : s.fault = .none) (hbusy : s.busy = false)
      (hpend : s.pend = false) : Effect s (.step m a v) s
  /-- STEP.SHIFT before the last micro-step (R78). -/
  | shifts (m : Mode) (a : BitVec 13) (v : BitVec 14) (l : Line) (b : Bool) (hfault : s.fault = .none)
      (hbusy : s.busy = true) (hph : s.ph.toNat < 49) (hmicro : microStep s.ph.toNat s.frame = some (l, b)) :
      Effect s (.step m a v) (advancePh (lineWrite l b s))
  /-- STEP.SHIFT at the last micro-step (R79). -/
  | commits (m : Mode) (a : BitVec 13) (v : BitVec 14) (hfault : s.fault = .none) (hbusy : s.busy = true)
      (hph : s.ph = 49#6) : Effect s (.step m a v) (complete (lineWrite .lat true s))
  /-- STEP.POLL with a mask (R76). -/
  | polls (m : Mode) (a : BitVec 13) (v : BitVec 14) (g : Byte) (hfault : s.fault = .none) (hbusy : s.busy = false)
      (hpend : s.pend = true) (hmask : compose s.segMap m s.slot a.toNat v.toNat = .mask g) :
      Effect s (.step m a v) (startFrame (mkFrame g (readSelMap s.selMap s.slot)) (clearPend s))
  /-- STEP.POLL with a fault of the formatter (R76, R101). -/
  | pollRaises (m : Mode) (a : BitVec 13) (v : BitVec 14) (c : FaultCode) (hfault : s.fault = .none)
      (hbusy : s.busy = false) (hpend : s.pend = true) (hillegal : inputsLegal m a.toNat v.toNat = false) :
      Effect s (.step m a v) (raiseFault c (clearPend s))
  /-- TICK (R74). -/
  | ticks : Effect s .tick (setPend s)
  /-- RESET (R120). -/
  | resets : Effect s .reset
      { s with
        slot := 0
        pend := false
        busy := false
        ph := 0
        frame := 0x0000
        fault := .none
        lat := false
        clk := false
        dat := false }

/-- The formatter raises only on an illegal input (R47). -/
theorem inputsLegal_of_compose_raises (m : Config.SegMap) (mode : Mode) (s : BitVec 2) (t v : Nat) (c : FaultCode)
    (h : compose m mode s t v = .raises c) : inputsLegal mode t v = false := by
  rcases compose_cases m mode s t v with ⟨-, g, hmask⟩ | ⟨hillegal, -⟩
  · simp [hmask] at h
  · exact hillegal

/-- STEP has one of its arms' effects (R75). -/
theorem execStep_effect (m : Mode) (a : BitVec 13) (v : BitVec 14) (s t : State) (h : execStep m a v s = .next t) :
    Effect s (.step m a v) t := by
  rcases execStep_cases m a v s t h with
    ⟨harm, rfl⟩ | ⟨harm, l, b, hmicro, rfl⟩ | ⟨harm, g, hmask, rfl⟩ | ⟨harm, c, hraise, rfl⟩ | ⟨harm, rfl⟩
  · exact .stuck m a v ((stepArm_eq_stuck_iff _).mp harm)
  · obtain ⟨hfault, hbusy⟩ := (stepArm_eq_shift_iff s).mp harm
    split
    next hph => exact .shifts m a v l b hfault hbusy hph hmicro
    next hph =>
      have hle : s.ph.toNat ≤ 49 := by
        by_contra hgt
        simp [microStep_eq_none_of_gt s.frame s.ph.toNat (by omega)] at hmicro
      have heq : s.ph.toNat = 49 := by omega
      obtain ⟨rfl, rfl⟩ : Line.lat = l ∧ true = b := by simpa [heq, microStep] using hmicro
      exact .commits m a v hfault hbusy (BitVec.eq_of_toNat_eq heq)
  · obtain ⟨hfault, hbusy, hpend⟩ := (stepArm_eq_poll_iff s).mp harm
    exact .polls m a v g hfault hbusy hpend hmask
  · obtain ⟨hfault, hbusy, hpend⟩ := (stepArm_eq_poll_iff s).mp harm
    exact .pollRaises m a v c hfault hbusy hpend (inputsLegal_of_compose_raises _ _ _ _ _ _ hraise)
  · obtain ⟨hfault, hbusy, hpend⟩ := (stepArm_eq_idle_iff _).mp harm
    exact .idle m a v hfault hbusy hpend

/-- An operation that answers a next state has one of the effects. -/
theorem exec_effect {i : Instr} {s t : State} (h : exec i s = .next t) : Effect s i t := by
  rcases exec_cases i s t h with
    ⟨r, rfl, hevent, -, hlegal⟩ | ⟨g, e, rfl, -⟩ | ⟨m, a, v, rfl, hstep⟩ | ⟨rfl, rfl⟩ | ⟨rfl, -⟩
  · exact .delivers i r hevent hlegal
  · obtain rfl := Host.Outcome.next.inj ((shiftoutPostcondition g e s).symm.trans h)
    exact .shiftsOut g e
  · exact execStep_effect m a v s t hstep
  · exact .ticks
  · obtain rfl := Host.Outcome.next.inj ((resetEventSetsBlockRegisters s).symm.trans h)
    exact .resets

/-! ### The fault record -/

/-- Settles O20: of the effects that touch the fault record, a delivery and a poll raise on an illegal operand only. -/
theorem legalOperandsNeverFault : Obligations.LegalOperandsNeverFault := by
  intro i s t hlegal h
  cases exec_effect h with
  | delivers _ r _ hmask =>
    obtain ⟨g, rfl⟩ := hmask hlegal
    exact ⟨rfl, fun _ => rfl⟩
  | pollRaises m a v c _ _ _ hillegal =>
    have hwf : inputsLegal m a.toNat v.toNat = true := hlegal
    simp [hillegal] at hwf
  | resets => exact ⟨rfl, fun hne => absurd rfl hne⟩
  | _ => exact ⟨rfl, fun _ => rfl⟩

/-- Settles O42: only a delivery and a poll raise, and they keep an earlier code and set the mark; only RESET clears the
code, and nothing the mark. -/
theorem faultRecordIsKept : Obligations.FaultRecordIsKept := by
  intro i s t h
  cases exec_effect h with
  | delivers _ r =>
    obtain ⟨hfault, hmark⟩ | ⟨hkept, hmark⟩ := deliver_fault_cases r s
    · exact ⟨fun _ _ => hfault, fun hm => hmark.trans hm, fun hne => absurd hfault hne⟩
    · exact ⟨fun hf _ => hkept hf, fun _ => hmark, fun _ _ => hmark⟩
  | pollRaises _ _ _ _ hfault => exact ⟨fun hne => absurd hfault hne, fun _ => rfl, fun _ _ => rfl⟩
  | resets => exact ⟨fun _ hne => absurd rfl hne, id, fun _ hne => absurd rfl hne⟩
  | _ => exact ⟨fun _ _ => rfl, id, fun hne => absurd rfl hne⟩

/-! ### What writes `PEND`, `SLOT`, `FRAME` and the lines -/

/-- Settles O37: TICK's effect sets `PEND`, the two effects of a poll and RESET's clear it, and no other writes it. -/
theorem pendIsSetByTickAndClearedByPollOrReset : Obligations.PendIsSetByTickAndClearedByPollOrReset := by
  intro i s t h
  cases exec_effect h with
  | delivers _ _ hevent =>
    have hne : i ≠ .reset := by rintro rfl; cases hevent
    simp +contextual [hne, isPoll_of_not_isStep i s (not_isStep_of_not_isEvent i hevent)]
  | shiftsOut g e => simp +contextual [isPoll, isStep]
  | stuck _ _ _ hfault => simp +contextual [hfault]
  | idle _ _ _ _ _ hpend => simp [hpend]
  | shifts _ _ _ _ _ _ hbusy => simp +contextual [hbusy]
  | commits _ _ _ _ hbusy => simp +contextual [hbusy]
  | polls _ _ _ _ hfault hbusy => simp +contextual [hfault, hbusy]
  | pollRaises _ _ _ _ hfault hbusy => simp +contextual [hfault, hbusy]
  | ticks => simp
  | resets => simp

/-- Settles O39: `complete` is the one effect besides RESET's that writes `SLOT`. -/
theorem slotAdvancesOnlyAtCommit : Obligations.SlotAdvancesOnlyAtCommit := by
  intro i s t h hne
  cases exec_effect h with
  | delivers _ _ hevent => simp [isCommit_of_not_isStep i s (not_isStep_of_not_isEvent i hevent)]
  | shiftsOut g e => rfl
  | stuck _ _ _ hfault => simp [hfault]
  | idle _ _ _ _ hbusy => simp [hbusy]
  | shifts _ _ _ _ _ _ _ hph =>
    have hph49 : s.ph ≠ 49#6 := by rintro heq; simp [heq] at hph
    simp [hph49]
  | commits _ _ _ hfault hbusy hph => simp [hfault, hbusy, hph]
  | polls _ _ _ _ _ hbusy => simp [hbusy]
  | pollRaises _ _ _ _ _ hbusy => simp [hbusy]
  | ticks => rfl
  | resets => exact absurd rfl hne

/-- Settles O43: `startFrame` and RESET's effect are the two that write `FRAME`. -/
theorem frameIsWrittenOnlyByPollAndReset : Obligations.FrameIsWrittenOnlyByPollAndReset := by
  intro i s t h hframe
  cases exec_effect h with
  | delivers _ r => exact absurd (deliver_frame_register r s) hframe
  | polls _ _ _ _ hfault hbusy hpend => exact .inl ((isPoll_iff _ s).mpr ⟨rfl, hfault, hbusy, hpend⟩)
  | resets => exact .inr rfl
  | _ => exact absurd rfl hframe

/-- Settles O40: the effects with a line write are those of SHIFT, SHIFTOUT and RESET, and RESET's keeps `SR` and
`OUT`. -/
theorem linesAreWrittenOnlyBySerializerAndReset : Obligations.LinesAreWrittenOnlyBySerializerAndReset := by
  intro i s t h hmoved
  cases exec_effect h with
  | delivers _ r => simp at hmoved
  | shiftsOut g e => exact .inr (.inl ⟨g, e, rfl⟩)
  | shifts _ _ _ _ _ hfault hbusy => exact .inl ⟨rfl, (stepArm_eq_shift_iff s).mpr ⟨hfault, hbusy⟩⟩
  | commits _ _ _ hfault hbusy => exact .inl ⟨rfl, (stepArm_eq_shift_iff s).mpr ⟨hfault, hbusy⟩⟩
  | resets => exact .inr (.inr ⟨rfl, rfl, rfl⟩)
  | _ => exact absurd hmoved (by simp [observe])

/-! ### The phase -/

/-- Settles O47: the effects that write `BUSY` or `PH` leave them at 0, start at 0, or go from below 49 to the next
phase. -/
theorem phaseStaysInRange : Obligations.PhaseStaysInRange := by
  intro i s t h hbusy hidle
  cases exec_effect h with
  | delivers _ r => simpa using ⟨hbusy, hidle⟩
  | shifts _ _ _ _ _ _ hb hph =>
    have hsucc := ph_succ s (by omega)
    exact ⟨fun _ => by simp only [advancePh_ph, lineWrite_ph]; omega, fun hf => by simp [hb] at hf⟩
  | commits => exact ⟨fun hf => by simp at hf, fun _ => rfl⟩
  | polls => exact ⟨fun _ => by simp, fun _ => rfl⟩
  | resets => exact ⟨fun hf => by simp at hf, fun _ => rfl⟩
  | _ => exact ⟨hbusy, hidle⟩

/-- Settles O32: R65 has no micro-step above 49 (`microStep_eq_none_of_gt`), which is where STEP.SHIFT stops. -/
theorem phaseOutOfRangeStops : Obligations.PhaseOutOfRangeStops := by
  intro m t v s hfault hbusy hph
  rw [exec_step_of_busy m t v s hfault hbusy]
  simp only [stepShift, microStep_eq_none_of_gt s.frame s.ph.toNat hph]

/-! ### The snapshot (R23, R81) -/

/-- Settles O36: three of the four arms of STEP have no snapshot, and the formatter reads the input of its mode. -/
theorem snapshotIsReadOnlyByPolls : Obligations.SnapshotIsReadOnlyByPolls := by
  intro m m' t t' v v' s
  refine ⟨fun hpoll => ?_, rfl, rfl⟩
  simp only [exec, execStep]
  cases harm : stepArm s with
  | poll => exact absurd harm hpoll
  | stuck => rfl
  | shift => rfl
  | idle => rfl

end Sys2Proof.Machine
end

section
/-! SUPPORT. The invariant of the machine under events: it holds at reset, every event keeps it, and no partial frame is
ever visible (42_serializer.md R66 to R68, 43_sequencer.md R75, R78, R84, 70_reset_and_hazards.md R123). -/

namespace Sys2Proof.Machine

/-! ### The invariant in terms of the frame's progress -/

/-- A busy serializer is as far with its frame as `PH` says. -/
theorem SerializerInv.progress {s : State} (h : SerializerInv s) (hbusy : s.busy = true) :
    ShiftProgress s.ph.toNat s.frame s :=
  ⟨h.latchLow hbusy, h.dataReady hbusy, h.clockLow hbusy, h.shifted hbusy⟩

/-- An idle serializer at phase 0 meets the invariant, whatever the lines hold. -/
theorem SerializerInv.of_idle {s : State} (hbusy : s.busy = false) (hph : s.ph = 0) : SerializerInv s := by
  constructor <;> simp [hbusy, hph]

/-- A busy serializer meets the invariant when it is as far with its frame as `PH` says. -/
theorem SerializerInv.of_progress {s : State} (hbusy : s.busy = true) (hph : s.ph.toNat ≤ 49) (hfault : s.fault = .none)
    (h : ShiftProgress s.ph.toNat s.frame s) : SerializerInv s :=
  ⟨fun hidle => by simp [hbusy] at hidle, fun _ => hph, fun _ => hfault, fun _ => h.latchLow, fun _ => h.dataReady,
    fun _ => h.clockLow, fun _ => h.shifted⟩

/-- At the commit the chain holds the whole frame, and the latch is still low (R67, R68). -/
theorem SerializerInv.at_commit {s : State} (h : SerializerInv s) (hbusy : s.busy = true) (hph : s.ph = 49#6) :
    s.sr = s.frame ∧ s.lat = false := by
  have hprogress : ShiftProgress 49 s.frame s := by simpa [hph] using h.progress hbusy
  exact ⟨hprogress.sr_eq, hprogress.latchLow (by decide)⟩

/-! ### Every event keeps the invariant -/

/-- Every event keeps the serializer's invariant: a micro-step is `ShiftProgress.next`, a poll starts at phase 0, and
the other effects leave an idle serializer idle (R20, R66, R67, R75, R78). -/
theorem SerializerInv.exec {i : Instr} {s t : State} (hs : SerializerInv s) (hevent : isEvent i = true)
    (h : exec i s = .next t) : SerializerInv t := by
  cases exec_effect h with
  | delivers _ _ hnot => simp [hnot] at hevent
  | shiftsOut g e => cases hevent
  | stuck => exact hs
  | idle => exact hs
  | shifts _ _ _ l b hfault hbusy hph hmicro =>
    obtain ⟨hlat, hdat, hclk, hsr⟩ := (hs.progress hbusy).next hph hmicro
    have hsucc : (s.ph + 1).toNat = s.ph.toNat + 1 := ph_succ s (by omega)
    refine .of_progress hbusy ?_ hfault ?_ <;> simp only [advancePh_ph, lineWrite_ph, hsucc]
    · omega
    · exact ⟨hlat, hdat, hclk, hsr⟩
  | commits => exact .of_idle rfl rfl
  | polls _ _ _ _ hfault => exact .of_progress rfl (by simp) hfault (.zero _ _)
  | pollRaises _ _ _ _ _ hbusy => exact .of_idle hbusy (hs.idle hbusy)
  | ticks => exact ⟨hs.idle, hs.phase, hs.noFault, hs.latchLow, hs.dataReady, hs.clockLow, hs.shifted⟩
  | resets => exact .of_idle rfl rfl

/-- Every event keeps that `FRAME` is the frame of the current slot while busy: a poll composes it so, and `SLOT`
advances when the frame ends (R14, R62). -/
theorem isFrameOf_exec {i : Instr} {s t : State} (hs : s.busy = true → IsFrameOf s.segMap s.selMap s.slot s.frame)
    (hevent : isEvent i = true) (h : exec i s = .next t) (hbusy : t.busy = true) :
    IsFrameOf t.segMap t.selMap t.slot t.frame := by
  cases exec_effect h with
  | delivers _ _ hnot => simp [hnot] at hevent
  | shiftsOut g e => cases hevent
  | commits => simp at hbusy
  | polls m a v g _ _ _ hmask => exact ⟨m, a, v, g, hmask, rfl⟩
  | resets => simp at hbusy
  | _ => exact hs hbusy

/-- A recorded fault stays marked under every operation (R101): a new one is marked when it is recorded. -/
theorem marked_exec {i : Instr} {s t : State} (hs : s.fault ≠ .none → s.faultMark = true) (h : exec i s = .next t)
    (hfault : t.fault ≠ .none) : t.faultMark = true := by
  obtain ⟨-, hkept, hnew⟩ := faultRecordIsKept i s t h
  by_cases hsame : t.fault = s.fault
  · exact hkept (hs (hsame ▸ hfault))
  · exact hnew hsame hfault

/-- Every event keeps the invariant. -/
theorem Inv.exec {i : Instr} {s t : State} (hs : Inv s) (hevent : isEvent i = true) (h : exec i s = .next t) :
    Inv t where
  events := by rw [exec_keeps_pending i s t h]; exact hs.events
  serializer := hs.serializer.exec hevent h
  frameOfSlot := isFrameOf_exec hs.frameOfSlot hevent h
  marked := marked_exec hs.marked h

/-- Taking a word off changes nothing that the invariant speaks of but the words. -/
theorem Inv.with_pending {s : State} (hs : Inv s) (ws : List InWord) (hws : eventsOnly ws = true) :
    Inv { s with pending := ws } := by
  obtain ⟨-, ⟨hidle, hphase, hnoFault, hlatch, hdata, hclock, hshifted⟩, hframe, hmarked⟩ := hs
  exact ⟨hws, ⟨hidle, hphase, hnoFault, hlatch, hdata, hclock, hshifted⟩, hframe, hmarked⟩

/-- The first of a list of event words is an event word, and so are the others (R49). -/
theorem eventsOnly_cons {w : InWord} {ws : List InWord} (h : eventsOnly (w :: ws) = true) :
    (∃ e : BitVec 30, w = .event e) ∧ eventsOnly ws = true := by
  cases w with
  | event e => exact ⟨⟨e, rfl⟩, h⟩
  | _ => cases h

/-- An event word decodes to an event (R45). -/
theorem isEvent_of_decodeEvent (w : BitVec 30) (i : Instr) (h : decodeEvent w = .ok i) : isEvent i = true := by
  obtain ⟨-, rfl⟩ | ⟨-, -, rfl⟩ | ⟨-, -, rfl⟩ := decodeEvent_eq_ok w i h
  · rfl
  · rfl
  · rfl

/-- Settles O44: after reset nothing is presented, the serializer is idle and no fault is recorded. -/
theorem invariantHoldsAtReset : Obligations.InvariantHoldsAtReset := fun _ _ =>
  ⟨rfl, .of_idle rfl rfl, fun hbusy => Bool.noConfusion hbusy, fun hfault => absurd rfl hfault⟩

/-- Settles O45: a step without a word changes nothing; a presented word is an event's, and every event keeps the
invariant (`Inv.exec`). -/
theorem everyStepKeepsTheInvariant : Obligations.EveryStepKeepsTheInvariant := by
  intro s t hs h
  rcases step_cases s t h with ⟨-, rfl⟩ | ⟨w, rest, i, hpending, hdecode, hexec⟩
  · exact hs
  · obtain ⟨⟨e, rfl⟩, hrest⟩ := eventsOnly_cons (hpending ▸ hs.events)
    exact (hs.with_pending rest hrest).exec (isEvent_of_decodeEvent e i hdecode) hexec

/-! ### No step faults, and every event sequence runs for ever -/

/-- Under the invariant a step does not stop: only STEP with `PH` above 49 would (log 10). -/
theorem Inv.step_ne_fault {s : State} (hs : Inv s) (r : Fault) : step s ≠ .fault r := by
  cases hpending : s.pending with
  | nil => simp [stepWithoutEventKeepsState s hpending]
  | cons w rest =>
    cases hdecode : decode w with
    | ok i =>
      rw [step_of_decode_ok s w rest i hpending hdecode]
      intro hfault
      obtain ⟨-, -, hbusy, hph⟩ := exec_fault i _ r hfault
      exact absurd (hs.serializer.phase hbusy) (Nat.not_le.mpr hph)
    | rejected e => simp [step_of_decode_rejected s w rest e hpending hdecode]

/-- Under the invariant every event answers a next state, which meets it again. -/
theorem Inv.exists_next {s : State} (hs : Inv s) (i : Instr) (hevent : isEvent i = true) :
    ∃ t : State, Machine.exec i s = .next t ∧ Inv t := by
  obtain ⟨t, ht⟩ := exec_event_next i s hs.serializer.phase
  exact ⟨t, ht, hs.exec hevent ht⟩

/-- The state that an operation answers, or the old one where it answers none. -/
def nextState (i : Instr) (s : State) : State :=
  match exec i s with
  | .next t => t
  | .fault _ => s
  | .refused _ => s

theorem nextState_of_exec {i : Instr} {s t : State} (h : exec i s = .next t) : nextState i s = t := by
  simp only [nextState, h]

/-- The states that a sequence of events leads through from `s` (R84). -/
def statesAlong (events : Nat → Instr) (s : State) : Nat → State
  | 0 => s
  | n + 1 => nextState (events n) (statesAlong events s n)

/-- From a state that meets the invariant, every state along a sequence of events meets it. -/
theorem inv_statesAlong {events : Nat → Instr} {s : State} (hs : Inv s) (hevents : ∀ n : Nat, isEvent (events n) = true)
    (n : Nat) : Inv (statesAlong events s n) := by
  induction n with
  | zero => exact hs
  | succ n ih =>
    obtain ⟨t, hexec, ht⟩ := ih.exists_next (events n) (hevents n)
    rw [statesAlong, nextState_of_exec hexec]
    exact ht

/-- Settles O46: no step faults (`Inv.step_ne_fault`), and the states along the events are a run that meets the
invariant throughout. -/
theorem noStepFaultsUnderTheInvariant : Obligations.NoStepFaultsUnderTheInvariant := by
  refine ⟨fun s r hs => hs.step_ne_fault r, fun s events hs hevents => ?_⟩
  refine ⟨statesAlong events s, rfl, fun n => ⟨hevents n, ?_⟩, inv_statesAlong hs hevents⟩
  obtain ⟨t, hexec, -⟩ := (inv_statesAlong hs hevents n).exists_next (events n) (hevents n)
  rw [hexec, statesAlong, nextState_of_exec hexec]

/-! ### No partial frame is visible (R123) -/

/-- One event leaves `OUT`, or puts the whole frame that was being serialized on it. -/
theorem SerializerInv.out_exec {i : Instr} {s t : State} (hs : SerializerInv s) (hevent : isEvent i = true)
    (h : Machine.exec i s = .next t) : t.out = s.out ∨ (s.busy = true ∧ t.out = s.frame) := by
  by_cases hout : t.out = s.out
  · exact .inl hout
  · obtain ⟨hcommit, -, -, hsr, -⟩ := outChangesOnlyByCommit.2 i s t hevent h hout
    obtain ⟨-, -, hbusy, hph⟩ := (isCommit_iff i s).mp hcommit
    exact .inr ⟨hbusy, hsr.trans (hs.at_commit hbusy hph).1⟩

/-- After an event the frame being serialized is the one from before, or the one that the event's poll composed. -/
theorem frame_exec {i : Instr} {s t : State} (hevent : isEvent i = true) (h : exec i s = .next t)
    (hbusy : t.busy = true) : (s.busy = true ∧ t.frame = s.frame) ∨ t.frame ∈ startedFrame i s t := by
  cases exec_effect h with
  | delivers _ _ hnot => simp [hnot] at hevent
  | shiftsOut g e => cases hevent
  | commits => simp at hbusy
  | polls m a v g hfault hidle hpend =>
    have hpoll : isPoll (.step m a v) s = true := (isPoll_iff _ s).mpr ⟨rfl, hfault, hidle, hpend⟩
    exact .inr (by simp [startedFrame, hpoll])
  | resets => simp at hbusy
  | _ => exact .inl ⟨hbusy, rfl⟩

/-- Settles O48, by induction on the events: the first one leaves `OUT` or completes the frame
(`SerializerInv.out_exec`), and the frame it leaves being serialized is the old one or a composed one (`frame_exec`). -/
theorem noPartialFrameIsVisible : Obligations.NoPartialFrameIsVisible := by
  intro is
  induction is with
  | nil =>
    intro s t _ _ h
    cases h
    exact .inl rfl
  | cons i is ih =>
    intro s t hs hall h
    obtain ⟨hevent, hrest⟩ : isEvent i = true ∧ is.all isEvent = true := by simpa using hall
    simp only [runTrace, pollFrames] at h ⊢
    cases hexec : exec i s with
    | fault r => simp [hexec] at h
    | refused r => simp [hexec] at h
    | next u =>
      simp only [hexec] at h ⊢
      rcases ih u t (hs.exec hevent hexec) hrest h with hout | ⟨hbusy, hout⟩ | hlater
      · rcases hs.out_exec hevent hexec with hkept | ⟨hbusy, hframe⟩
        · exact .inl (hout.trans hkept)
        · exact .inr (.inl ⟨hbusy, hout.trans hframe⟩)
      · rcases frame_exec hevent hexec hbusy with ⟨hsbusy, hframe⟩ | hstarted
        · exact .inr (.inl ⟨hsbusy, hout.trans hframe⟩)
        · exact .inr (.inr (List.mem_append_left _ (hout ▸ hstarted)))
      · exact .inr (.inr (List.mem_append_right _ hlater))

end Sys2Proof.Machine
end

section
/-! SUPPORT. Counting polls and commits along a trace of events, and where they leave `SLOT` (43_sequencer.md R69, R79,
R82, R83). -/

namespace Sys2Proof.Machine

/-! ### A count bounded by another and a budget -/

/-- If every event pays for `c` times its own `p` out of its `q` and the state's budget, then so does every trace. -/
theorem mul_countTrace_le (c : Nat) (p q : Instr → State → Bool) (budget : State → Nat)
    (hnext : ∀ (i : Instr) (s t : State), isEvent i = true → exec i s = .next t →
      c * (p i s).toNat + budget t ≤ (q i s).toNat + budget s)
    (hstop : ∀ (i : Instr) (s : State), c * (p i s).toNat ≤ (q i s).toNat + budget s)
    (is : List Instr) (s : State) (hall : is.all isEvent = true) :
    c * countTrace p is s ≤ countTrace q is s + budget s := by
  induction is generalizing s with
  | nil => simp [countTrace]
  | cons i is ih =>
    obtain ⟨hevent, hrest⟩ : isEvent i = true ∧ is.all isEvent = true := by simpa using hall
    have hp : (if p i s = true then 1 else 0) = (p i s).toNat := by cases p i s <;> rfl
    have hq : (if q i s = true then 1 else 0) = (q i s).toNat := by cases q i s <;> rfl
    simp only [countTrace, hp, hq, Nat.mul_add]
    cases hexec : exec i s with
    | next t =>
      have hfirst := hnext i s t hevent hexec
      have hothers := ih t hrest
      simp only
      omega
    | fault r => exact hstop i s
    | refused r => exact hstop i s

/-- A count that looks at the operations only is at most their number in the list. -/
theorem countTrace_le_countP (p : Instr → Bool) (is : List Instr) (s : State) :
    countTrace (fun i _ => p i) is s ≤ is.countP p := by
  induction is generalizing s with
  | nil => simp [countTrace]
  | cons i is ih =>
    rw [countTrace, List.countP_cons, Nat.add_comm]
    refine Nat.add_le_add_right ?_ _
    cases exec i s with
    | next t => exact ih t
    | fault r => exact Nat.zero_le _
    | refused r => exact Nat.zero_le _

/-- A commit ends a busy time, and only a poll starts one (R76, R79). -/
theorem commit_pays (i : Instr) (s t : State) (hevent : isEvent i = true) (h : exec i s = .next t) :
    1 * (isCommit i s).toNat + t.busy.toNat ≤ (isPoll i s).toNat + s.busy.toNat := by
  cases exec_effect h with
  | delivers _ _ hnot => simp [hnot] at hevent
  | shiftsOut g e => cases hevent
  | stuck m a v hfault => simp [hfault]
  | idle m a v hfault hbusy => simp [hbusy]
  | shifts m a v l b hfault hbusy hph =>
    have hph49 : s.ph ≠ 49#6 := by rintro heq; simp [heq] at hph
    simp [hph49]
  | commits m a v hfault hbusy hph => simp [hfault, hbusy, hph]
  | polls m a v g hfault hbusy hpend => simp [hfault, hbusy, hpend]
  | pollRaises m a v c hfault hbusy hpend => simp [hfault, hbusy, hpend]
  | ticks => simp
  | resets => simp

/-- A poll uses a pending refresh up, and only TICK makes one (R74, R76). -/
theorem poll_pays (i : Instr) (s t : State) (hevent : isEvent i = true) (h : exec i s = .next t) :
    1 * (isPoll i s).toNat + t.pend.toNat ≤ (isTick i).toNat + s.pend.toNat := by
  cases exec_effect h with
  | delivers _ _ hnot => simp [hnot] at hevent
  | shiftsOut g e => cases hevent
  | stuck m a v hfault => simp [hfault]
  | idle m a v hfault hbusy hpend => simp [hfault, hbusy, hpend]
  | shifts m a v l b hfault hbusy => simp [hfault, hbusy]
  | commits m a v hfault hbusy => simp [hfault, hbusy]
  | polls m a v g hfault hbusy hpend => simp [hpend, Bool.toNat_le]
  | pollRaises m a v c hfault hbusy hpend => simp [hpend, Bool.toNat_le]
  | ticks => simp
  | resets => simp

/-- A frame takes 50 STEPs: each advances `PH` by one, and the commit takes the 49 back (R69, R78). -/
theorem phase_pays (i : Instr) (s t : State) (hevent : isEvent i = true) (h : exec i s = .next t) :
    50 * (isCommit i s).toNat + t.ph.toNat ≤ (isStep i).toNat + s.ph.toNat := by
  cases exec_effect h with
  | delivers _ _ hnot => simp [hnot] at hevent
  | shiftsOut g e => cases hevent
  | stuck m a v hfault => simp [hfault]
  | idle m a v hfault hbusy => simp [hbusy]
  | shifts m a v l b hfault hbusy hph =>
    have hph49 : s.ph ≠ 49#6 := by rintro heq; simp [heq] at hph
    have hsucc := ph_succ s (by omega)
    simp only [advancePh_ph, lineWrite_ph, hsucc, isCommit_step, hph49, and_false, decide_false, Bool.toNat_false,
      isStep_step, Bool.toNat_true]
    omega
  | commits m a v hfault hbusy hph => simp [hfault, hbusy, hph]
  | polls m a v g hfault hbusy => simp [hfault, hbusy]
  | pollRaises m a v c hfault hbusy => simp [hfault, hbusy]
  | ticks => simp
  | resets => simp

/-- The commits of a trace are paid for by its polls and the frame already started (R83). -/
theorem countTrace_isCommit_le_isPoll (is : List Instr) (s : State) (hall : is.all isEvent = true) :
    countTrace isCommit is s ≤ countTrace isPoll is s + s.busy.toNat := by
  have hle := mul_countTrace_le 1 isCommit isPoll (fun s => s.busy.toNat) commit_pays (fun i s => ?stop) is s hall
  case stop =>
    cases hcommit : isCommit i s with
    | false => simp
    | true =>
      obtain ⟨-, -, hbusy, -⟩ := (isCommit_iff i s).mp hcommit
      simp [hbusy]
  simpa using hle

/-- The polls of a trace are paid for by its ticks and the refresh already pending (R83). -/
theorem countTrace_isPoll_le_ticks (is : List Instr) (s : State) (hall : is.all isEvent = true) :
    countTrace isPoll is s ≤ is.countP isTick + s.pend.toNat := by
  have hle := mul_countTrace_le 1 isPoll (fun i _ => isTick i) (fun s => s.pend.toNat) poll_pays (fun i s => ?stop)
    is s hall
  case stop =>
    cases hpoll : isPoll i s with
    | false => simp
    | true =>
      obtain ⟨-, -, -, hpend⟩ := (isPoll_iff i s).mp hpoll
      simp [hpend]
  have hticks := countTrace_le_countP isTick is s
  omega

/-- The commits of a trace take 50 STEPs each, less the phase already reached (R69). -/
theorem mul_countTrace_isCommit_le_steps (is : List Instr) (s : State) (hall : is.all isEvent = true) :
    50 * countTrace isCommit is s ≤ is.countP isStep + s.ph.toNat := by
  have hle := mul_countTrace_le 50 isCommit (fun i _ => isStep i) (fun s => s.ph.toNat) phase_pays (fun i s => ?stop)
    is s hall
  case stop =>
    cases hcommit : isCommit i s with
    | false => simp
    | true =>
      obtain ⟨hstep, -, -, hph⟩ := (isCommit_iff i s).mp hcommit
      simp [hstep, hph]
  have hsteps := countTrace_le_countP isStep is s
  omega

/-- Settles O52: the two bounds, with a flag's count written as the statement writes it. -/
theorem commitsNeverExceedPollsNorPollsTicks : Obligations.CommitsNeverExceedPollsNorPollsTicks := by
  intro is s hall
  have hflag : ∀ b : Bool, (if b = true then 1 else 0) = b.toNat := by decide
  rw [hflag, hflag]
  exact ⟨countTrace_isCommit_le_isPoll is s hall, countTrace_isPoll_le_ticks is s hall⟩

/-! ### The slot follows the commits (R82) -/

/-- A STEP or a TICK is one of the two. -/
theorem isStepOrTick_cases {i : Instr} (h : isStepOrTick i = true) :
    (∃ (m : Mode) (t : BitVec 13) (v : BitVec 14), i = .step m t v) ∨ i = .tick := by
  cases i with
  | step m t v => exact .inl ⟨m, t, v, rfl⟩
  | tick => exact .inr rfl
  | _ => cases h

/-- STEPs and TICKs are events. -/
theorem all_isEvent_of_all_isStepOrTick {is : List Instr} (h : is.all isStepOrTick = true) : is.all isEvent = true := by
  refine List.all_eq_true.mpr fun i hi => ?_
  obtain ⟨m, t, v, rfl⟩ | rfl := isStepOrTick_cases (List.all_eq_true.mp h i hi)
  · rfl
  · rfl

/-- The next slot as a number mod 4 (R14). -/
theorem slot_succ (p : BitVec 2) : (p + 1).toNat = (p.toNat + 1) % 4 := by
  simp [BitVec.toNat_add]

/-- Without RESET, `SLOT` counts the commits mod 4. -/
theorem slot_runTrace (is : List Instr) (s t : State) (hall : is.all isStepOrTick = true)
    (h : runTrace is s = .next t) : t.slot.toNat = (s.slot.toNat + countTrace isCommit is s) % 4 := by
  induction is generalizing s with
  | nil =>
    cases h
    exact (Nat.mod_eq_of_lt t.slot.isLt).symm
  | cons i is ih =>
    obtain ⟨hi, hrest⟩ : isStepOrTick i = true ∧ is.all isStepOrTick = true := by simpa using hall
    have hne : i ≠ .reset := by rintro rfl; cases hi
    simp only [runTrace, countTrace] at h ⊢
    cases hexec : exec i s with
    | fault r => simp [hexec] at h
    | refused r => simp [hexec] at h
    | next u =>
      simp only [hexec] at h ⊢
      rw [ih u hrest h, slotAdvancesOnlyAtCommit i s u hexec hne]
      split
      · rw [slot_succ]
        omega
      · rw [Nat.zero_add]

/-- What a commit answers: the latch goes high and the frame ends (R79). -/
theorem exec_of_isCommit {i : Instr} {s t : State} (hcommit : isCommit i s = true) (h : exec i s = .next t) :
    t = complete (lineWrite .lat true s) := by
  obtain ⟨hstep, hfault, hbusy, hph⟩ := (isCommit_iff i s).mp hcommit
  cases i with
  | step m a v =>
    rw [exec_step_of_busy m a v s hfault hbusy, stepShift_of_eq s (by simp [hph])] at h
    exact (Host.Outcome.next.inj h).symm
  | _ => cases hstep

/-- From a state that meets the serializer's invariant, a commit puts the frame on `OUT` (R68, R107). -/
theorem SerializerInv.out_of_isCommit {i : Instr} {s t : State} (hs : SerializerInv s) (hcommit : isCommit i s = true)
    (h : Machine.exec i s = .next t) : t.out = s.frame := by
  obtain ⟨-, -, hbusy, hph⟩ := (isCommit_iff i s).mp hcommit
  obtain ⟨hsr, hlat⟩ := hs.at_commit hbusy hph
  rw [exec_of_isCommit hcommit h, lineWrite_lat_rise s hlat]
  exact hsr

/-- The low byte of a frame of slot `p` is the slot's select mask (R33, R62). -/
theorem IsFrameOf.select {seg : Config.SegMap} {sel : Config.SelMap} {p : BitVec 2} {w : Frame}
    (h : IsFrameOf seg sel p w) : w.extractLsb' 0 8 = readSelMap sel p := by
  obtain ⟨m, t, v, g, -, rfl⟩ := h
  exact BitVec.extractLsb'_append_eq_right

/-- From a state that meets the invariant, a commit shows the current slot's position (R82). -/
theorem Inv.select_of_isCommit {i : Instr} {s t : State} (hs : Inv s) (hcommit : isCommit i s = true)
    (h : Machine.exec i s = .next t) : t.out.extractLsb' 0 8 = readSelMap s.selMap s.slot := by
  obtain ⟨-, -, hbusy, -⟩ := (isCommit_iff i s).mp hcommit
  rw [hs.serializer.out_of_isCommit hcommit h]
  exact (hs.frameOfSlot hbusy).select

/-- Settles O53: `slot_runTrace`; and a commit puts the frame of the current slot on `OUT` (`Inv.select_of_isCommit`)
and goes to the next slot. -/
theorem slotsCycleWithCommits : Obligations.SlotsCycleWithCommits := by
  refine ⟨slot_runTrace, fun i s t hs h hcommit => ⟨hs.select_of_isCommit hcommit h, ?_⟩⟩
  rw [exec_of_isCommit hcommit h]
  exact slot_succ s.slot

end Sys2Proof.Machine
end

section
/-! SUPPORT. What whole traces do: ticks in a row, a fault that holds, the STEPs that commit a frame, and the
pseudo-operations of 30_encoding.md R50 (43_sequencer.md R68 to R70, R79, R80, 70_reset_and_hazards.md R121, R124). -/

namespace Sys2Proof.Machine

/-! ### One event more in front of a trace -/

theorem runTrace_cons {i : Instr} {s t : State} (h : exec i s = .next t) (is : List Instr) :
    runTrace (i :: is) s = runTrace is t := by
  simp only [runTrace, h]

theorem countTrace_cons {i : Instr} {s t : State} (h : exec i s = .next t) (p : Instr → State → Bool)
    (is : List Instr) : countTrace p (i :: is) s = (if p i s then 1 else 0) + countTrace p is t := by
  simp only [countTrace, h]

theorem pollFrames_cons {i : Instr} {s t : State} (h : exec i s = .next t) (is : List Instr) :
    pollFrames (i :: is) s = startedFrame i s t ++ pollFrames is t := by
  simp only [pollFrames, h]

/-! ### Ticks, and STEPs without a transition -/

/-- TICK's answer (R74). -/
theorem exec_tick (s : State) : exec .tick s = .next (setPend s) := rfl

/-- A stuck STEP changes nothing (R80; log 5). -/
theorem exec_step_of_fault (m : Mode) (t : BitVec 13) (v : BitVec 14) (s : State) (hfault : s.fault ≠ .none) :
    exec (.step m t v) s = .next s := by
  have harm : stepArm s = .stuck := (stepArm_eq_stuck_iff s).mpr hfault
  simp only [exec, execStep, harm, stepStuck]

/-- Settles O28, by induction on the number of ticks: a second `PEND <- 1` changes nothing. -/
theorem ticksMerge : Obligations.TicksMerge := by
  intro n
  induction n with
  | zero => exact fun s => rfl
  | succ n ih => exact fun s => (runTrace_cons (exec_tick s) _).trans (ih (setPend s))

/-- A trace whose STEPs, if any, find the block stuck changes `PEND` alone, and only by its ticks (R74, R80). -/
theorem runTrace_pend_only (is : List Instr) (s : State) (hall : is.all isStepOrTick = true)
    (hstuck : s.fault = .none → is.countP isStep = 0) :
    runTrace is s = .next { s with pend := s.pend || is.any isTick } := by
  induction is generalizing s with
  | nil => simp [runTrace]
  | cons i is ih =>
    obtain ⟨hi, hrest⟩ : isStepOrTick i = true ∧ is.all isStepOrTick = true := by simpa using hall
    obtain ⟨m, t, v, rfl⟩ | rfl := isStepOrTick_cases hi
    · have hfault : s.fault ≠ .none := fun hf => by simpa using hstuck hf
      rw [runTrace_cons (exec_step_of_fault m t v s hfault), ih s hrest fun hf => absurd hf hfault]
      simp
    · rw [runTrace_cons (exec_tick s), ih (setPend s) hrest fun hf => by simpa using hstuck hf]
      simp [setPend]

/-- Settles O33: a faulted block is stuck in every STEP (`runTrace_pend_only`), and RESET clears the code. -/
theorem faultHoldsUntilReset : Obligations.FaultHoldsUntilReset := by
  intro is s hfault hall
  have hrun := runTrace_pend_only is s hall fun hf => absurd hf hfault
  refine ⟨hrun, ?_⟩
  rw [runTrace_append, hrun]
  exact ⟨_, runTrace_cons (resetEventSetsBlockRegisters _) [], rfl⟩

/-- Idle STEPs change nothing, however many there are (R77). -/
theorem runTrace_idle (is : List Instr) (s : State) (hall : is.all isStep = true) (hfault : s.fault = .none)
    (hbusy : s.busy = false) (hpend : s.pend = false) : runTrace is s = .next s := by
  induction is with
  | nil => rfl
  | cons i is ih =>
    obtain ⟨hi, hrest⟩ : isStep i = true ∧ is.all isStep = true := by simpa using hall
    cases i with
    | step m t v => rw [runTrace_cons (idleStepKeepsState m t v s hfault hbusy hpend), ih hrest]
    | _ => cases hi

/-! ### The STEPs that commit a started frame -/

/-- An update that every line write passes by is passed by all of them. -/
theorem writeLines_comm (f : State → State)
    (hf : ∀ (l : Line) (b : Bool) (s : State), lineWrite l b (f s) = f (lineWrite l b s)) (xs : List (Line × Bool))
    (s : State) : writeLines xs (f s) = f (writeLines xs s) := by
  induction xs generalizing s with
  | nil => rfl
  | cons x xs ih => rw [writeLines, writeLines, hf, ih]

theorem writeLines_setPend (xs : List (Line × Bool)) (s : State) :
    writeLines xs (setPend s) = setPend (writeLines xs s) :=
  writeLines_comm setPend (fun _ _ _ => rfl) xs s

/-- The end of a frame forgets the phase (R79). -/
theorem complete_writeLines_advancePh (xs : List (Line × Bool)) (s : State) :
    complete (writeLines xs (advancePh s)) = complete (writeLines xs s) := by
  rw [writeLines_comm advancePh (fun _ _ _ => rfl) xs s]
  rfl

/-- The line writes left at a phase: the next micro-step, then those left at the next phase (R65). -/
theorem writeLines_drop (w : Frame) (s : State) (k : Nat) (l : Line) (b : Bool) (hk : k < 50)
    (h : microStep k w = some (l, b)) :
    writeLines ((frameWrites w).drop k) s = writeLines ((frameWrites w).drop (k + 1)) (lineWrite l b s) := by
  have hlt : k < (frameWrites w).length := by rw [length_frameWrites]; exact hk
  have hget : (frameWrites w)[k] = (l, b) := by
    rw [← Option.some_inj, ← List.getElem?_eq_getElem hlt, getElem?_frameWrites w k hk, h]
  rw [List.drop_eq_getElem_cons hlt, hget, writeLines]

/-- A started frame, its remaining line writes done and the frame ended: where the STEPs that are left lead to, with a
refresh pending as `p` says. -/
def committed (s : State) (p : Bool) : State :=
  { complete (writeLines ((frameWrites s.frame).drop s.ph.toNat) s) with pend := p }

/-- The STEPs that are left of a frame commit it, whatever TICKs fall between them (R69, R70, R78, R79). -/
theorem runTrace_to_commit (is : List Instr) (s : State) (hfault : s.fault = .none) (hbusy : s.busy = true)
    (hph : s.ph.toNat ≤ 49) (hall : is.all isStepOrTick = true) (hsteps : is.countP isStep + s.ph.toNat = 50) :
    runTrace is s = .next (committed s (s.pend || is.any isTick)) := by
  induction is generalizing s with
  | nil => simp at hsteps; omega
  | cons i is ih =>
    obtain ⟨hi, hrest⟩ : isStepOrTick i = true ∧ is.all isStepOrTick = true := by simpa using hall
    obtain ⟨m, t, v, rfl⟩ | rfl := isStepOrTick_cases hi
    · rw [List.countP_cons_of_pos rfl] at hsteps
      rcases Nat.lt_or_ge s.ph.toNat 49 with hlt | hge
      · obtain ⟨l, b, hmicro⟩ := exists_microStep_of_le s.ph.toNat s.frame hph
        have hexec : exec (.step m t v) s = .next (advancePh (lineWrite l b s)) := by
          rw [exec_step_of_busy m t v s hfault hbusy, stepShift_of_lt s l b hlt hmicro]
        have hsucc : (s.ph + 1).toNat = s.ph.toNat + 1 := ph_succ s (by omega)
        rw [runTrace_cons hexec, ih (advancePh (lineWrite l b s)) hfault hbusy
          (by simp only [advancePh_ph, lineWrite_ph]; omega) hrest (by simp only [advancePh_ph, lineWrite_ph]; omega)]
        simp only [committed, advancePh_ph, lineWrite_ph, advancePh_frame, lineWrite_frame, advancePh_pend,
          lineWrite_pend, hsucc, complete_writeLines_advancePh,
          writeLines_drop s.frame s s.ph.toNat l b (by omega) hmicro, List.any_cons, isTick_step, Bool.false_or]
      · have heq : s.ph.toNat = 49 := by omega
        have hexec : exec (.step m t v) s = .next (complete (lineWrite .lat true s)) := by
          rw [exec_step_of_busy m t v s hfault hbusy, stepShift_of_eq s heq]
        have hlast : writeLines ((frameWrites s.frame).drop 49) s = lineWrite .lat true s := by
          rw [writeLines_drop s.frame s 49 .lat true (by decide) rfl,
            List.drop_of_length_le (length_frameWrites s.frame).le, writeLines]
        rw [runTrace_cons hexec, runTrace_pend_only is _ hrest fun _ => by omega]
        simp [committed, heq, hlast]
    · rw [List.countP_cons_of_neg (by simp)] at hsteps
      rw [runTrace_cons (exec_tick s), ih (setPend s) hfault hbusy hph hrest hsteps]
      simp only [committed, setPend_ph, setPend_frame, setPend_pend, writeLines_setPend, List.any_cons, isTick_tick,
        Bool.true_or, Bool.or_true]
      rfl

/-- Settles O49: from phase 0 the 50 STEPs are all of the frame's line writes (`runTrace_to_commit`), whose outcome is
R68's (`writeLines_frameWrites`). -/
theorem fiftyStepsCommitTheFrame : Obligations.FiftyStepsCommitTheFrame := by
  intro is s hfault hbusy hph hall hsteps
  have hcount : is.countP isStep + s.ph.toNat = 50 := by rw [hph, List.countP_eq_length_filter, hsteps]; rfl
  rw [runTrace_to_commit is s hfault hbusy (by simp [hph]) hall hcount, committed, hph]
  exact congrArg (fun u : State => Host.Outcome.next { complete u with pend := s.pend || is.any isTick })
    (writeLines_frameWrites s.frame s)

end Sys2Proof.Machine
end

section
/-! SUPPORT. The pseudo-operations RENDER and FRAMECYCLE, and the first render after RESET (30_encoding.md R50,
70_reset_and_hazards.md R121). -/

namespace Sys2Proof.Machine

/-! ### RENDER -/

/-- A STEP that polls with its input in range starts the frame of the current slot (R76). -/
theorem exec_step_starts (m : Mode) (t : BitVec 13) (v : BitVec 14) (s : State) (hfault : s.fault = .none)
    (hbusy : s.busy = false) (hpend : s.pend = true) (hlegal : inputsLegal m t.toNat v.toNat = true) :
    ∃ g : Byte, compose s.segMap m s.slot t.toNat v.toNat = .mask g ∧
      exec (.step m t v) s = .next (startFrame (mkFrame g (readSelMap s.selMap s.slot)) (clearPend s)) := by
  rcases compose_cases s.segMap m s.slot t.toNat v.toNat with ⟨-, g, hmask⟩ | ⟨hillegal, -⟩
  · refine ⟨g, hmask, ?_⟩
    rw [exec_step_of_pend m t v s hfault hbusy hpend, stepPoll_of_mask m t v s g hmask]
    rfl
  · simp [hillegal] at hlegal

/-- `n` bare STEPs, as RENDER has them behind its own STEP (R50). -/
def bareSteps (n : Nat) : List Instr := List.replicate n (stepWith .bare)

/-- RENDER is the STEP with its inputs and 50 bare STEPs (R50). -/
theorem renderEvents_full (m : Mode) (t : BitVec 13) (v : BitVec 14) :
    renderEvents (.full m t v) = .step m t v :: bareSteps 50 := rfl

/-- Without its last event, RENDER has 49 bare STEPs. -/
theorem renderEvents_full_take (m : Mode) (t : BitVec 13) (v : BitVec 14) :
    (renderEvents (.full m t v)).take 50 = .step m t v :: bareSteps 49 := rfl

theorem bareSteps_all (n : Nat) : (bareSteps n).all isStep = true := by
  simp [bareSteps, stepWith]

theorem bareSteps_countP (n : Nat) : (bareSteps n).countP isStep = n := by
  simp [bareSteps, stepWith, List.countP_replicate]

theorem bareSteps_any_isTick (n : Nat) : (bareSteps n).any isTick = false := by
  simp [bareSteps, stepWith]

/-- STEPs are STEPs or TICKs. -/
theorem all_isStepOrTick_of_all_isStep {is : List Instr} (h : is.all isStep = true) : is.all isStepOrTick = true :=
  List.all_eq_true.mpr fun i hi => by simp [isStepOrTick, List.all_eq_true.mp h i hi]

/-- RENDER's 50 bare STEPs commit the frame that its poll started (R50, R68, R79). -/
theorem runTrace_bareSteps (w : Frame) (s : State) (hfault : s.fault = .none) :
    runTrace (bareSteps 50) (startFrame w (clearPend s)) =
      .next { s with
        pend := false
        frame := w
        busy := false
        ph := 0
        lat := true
        clk := true
        dat := w.getLsbD 0
        sr := w
        out := w
        slot := s.slot + 1 } := by
  rw [fiftyStepsCommitTheFrame _ (startFrame w (clearPend s)) hfault rfl rfl
    (all_isStepOrTick_of_all_isStep (bareSteps_all 50)) (by rw [← List.countP_eq_length_filter, bareSteps_countP]),
    bareSteps_any_isTick]
  rfl

/-- Settles O50: with a refresh pending RENDER's STEP starts the frame (`exec_step_starts`) and the bare STEPs commit it
(`runTrace_bareSteps`); without one, all 51 STEPs are idle. -/
theorem renderCommitsTheSlotsFrame : Obligations.RenderCommitsTheSlotsFrame := by
  intro m t v s hfault hbusy
  refine ⟨fun hpend hlegal => ?render, fun hpend => ?nothing⟩
  case render =>
    obtain ⟨g, hmask, hexec⟩ := exec_step_starts m t v s hfault hbusy hpend hlegal
    refine ⟨g, hmask, ?_⟩
    rw [renderEvents_full, runTrace_cons hexec, runTrace_bareSteps _ s hfault, mkFrame_low _ _ 0 (by decide), ← hbusy]
  case nothing =>
    exact runTrace_idle _ s (by simp [renderEvents, stepWith]) hfault hbusy hpend

/-! ### REFRESH -/

/-- Every composed frame is a poll's (R76). -/
theorem length_pollFrames_le (is : List Instr) (s : State) : (pollFrames is s).length ≤ countTrace isPoll is s := by
  induction is generalizing s with
  | nil => exact Nat.zero_le _
  | cons i is ih =>
    simp only [pollFrames, countTrace]
    cases exec i s with
    | next t =>
      have hfirst : (startedFrame i s t).length ≤ if isPoll i s then 1 else 0 := by
        unfold startedFrame
        cases isPoll i s <;> cases t.busy <;> simp
      have hothers := ih t
      simp only [List.length_append]
      omega
    | fault r => exact Nat.zero_le _
    | refused r => exact Nat.zero_le _

/-- STEPs without a refresh pending do not poll (R76, R77). -/
theorem countTrace_isPoll_of_steps (is : List Instr) (s : State) (hall : is.all isStep = true)
    (hpend : s.pend = false) : countTrace isPoll is s = 0 := by
  have hticks : is.countP isTick = 0 := by
    refine List.countP_eq_zero.mpr fun i hi => ?_
    have hstep := List.all_eq_true.mp hall i hi
    cases i with
    | step m t v => simp
    | _ => cases hstep
  have hpolls := countTrace_isPoll_le_ticks is s (all_isEvent_of_all_isStepOrTick (all_isStepOrTick_of_all_isStep hall))
  rw [hticks, hpend] at hpolls
  exact Nat.le_zero.mp hpolls

/-- STEPs without a refresh pending compose no frame (R76, R77). -/
theorem pollFrames_of_steps (is : List Instr) (s : State) (hall : is.all isStep = true) (hpend : s.pend = false) :
    pollFrames is s = [] := by
  have hframes := length_pollFrames_le is s
  rw [countTrace_isPoll_of_steps is s hall hpend] at hframes
  exact List.eq_nil_of_length_eq_zero (Nat.le_zero.mp hframes)

/-- From an idle state, STEPs without a refresh pending commit no frame (R77). -/
theorem countTrace_isCommit_of_steps (is : List Instr) (s : State) (hall : is.all isStep = true)
    (hbusy : s.busy = false) (hpend : s.pend = false) : countTrace isCommit is s = 0 := by
  have hcommits := countTrace_isCommit_le_isPoll is s
    (all_isEvent_of_all_isStepOrTick (all_isStepOrTick_of_all_isStep hall))
  rw [countTrace_isPoll_of_steps is s hall hpend, hbusy] at hcommits
  exact Nat.le_zero.mp hcommits

/-- What REFRESH with input `m`, `t`, `v` does from an idle state `s`, for the mask `g` that it composes and the state
`u` that it leads to (R50). -/
structure Refreshes (m : Mode) (t : BitVec 13) (v : BitVec 14) (s u : State) (g : Byte) : Prop where
  mask : compose s.segMap m s.slot t.toNat v.toNat = .mask g
  run : runTrace (refreshEvents (.full m t v)) s = .next u
  frames : pollFrames (refreshEvents (.full m t v)) s = [mkFrame g (readSelMap s.selMap s.slot)]
  commits : countTrace isCommit (refreshEvents (.full m t v)) s = 1
  /-- The commit is the last of its events. -/
  commitsLast : countTrace isCommit (.tick :: (renderEvents (.full m t v)).take 50) s = 0
  fault : u.fault = .none
  busy : u.busy = false
  pend : u.pend = false
  slot : u.slot = s.slot + 1
  out : u.out = mkFrame g (readSelMap s.selMap s.slot)
  segMap : u.segMap = s.segMap
  selMap : u.selMap = s.selMap

/-- A started frame is committed by the 50th of RENDER's bare STEPs and by no other: each commit takes 50 STEPs
(`mul_countTrace_isCommit_le_steps`), and `SLOT` has counted one (`slot_runTrace`). -/
theorem countTrace_isCommit_bareSteps (w : Frame) (s : State) (hfault : s.fault = .none) :
    countTrace isCommit (bareSteps 50) (startFrame w (clearPend s)) = 1 ∧
      countTrace isCommit (bareSteps 49) (startFrame w (clearPend s)) = 0 := by
  have hall := fun n => all_isStepOrTick_of_all_isStep (bareSteps_all n)
  have hbound := fun n => mul_countTrace_isCommit_le_steps (bareSteps n) (startFrame w (clearPend s))
    (all_isEvent_of_all_isStepOrTick (hall n))
  have h50 := hbound 50
  have h49 := hbound 49
  have hslot := slot_runTrace _ _ _ (hall 50) (runTrace_bareSteps w s hfault)
  rw [bareSteps_countP, startFrame_ph, show (0 : BitVec 6).toNat = 0 from rfl] at h50 h49
  simp only [startFrame_slot, clearPend_slot, slot_succ] at hslot
  omega

/-- REFRESH from an idle state, with the input in range (R50). -/
theorem exists_refreshes (m : Mode) (t : BitVec 13) (v : BitVec 14) (s : State) (hfault : s.fault = .none)
    (hbusy : s.busy = false) (hlegal : inputsLegal m t.toNat v.toNat = true) :
    ∃ (g : Byte) (u : State), Refreshes m t v s u g := by
  obtain ⟨g, hmask, hexec⟩ := exec_step_starts m t v (setPend s) hfault hbusy rfl hlegal
  have htick : exec .tick s = .next (setPend s) := exec_tick s
  have hrun := runTrace_bareSteps (mkFrame g (readSelMap s.selMap s.slot)) (setPend s) hfault
  obtain ⟨hcommits, hbefore⟩ :=
    countTrace_isCommit_bareSteps (mkFrame g (readSelMap s.selMap s.slot)) (setPend s) hfault
  have hframes := pollFrames_of_steps (bareSteps 50)
    (startFrame (mkFrame g (readSelMap s.selMap s.slot)) (clearPend (setPend s))) (bareSteps_all 50) rfl
  have hpoll : isPoll (.step m t v) (setPend s) = true := (isPoll_iff _ _).mpr ⟨rfl, hfault, hbusy, rfl⟩
  have hcommit : isCommit (.step m t v) (setPend s) = false := by simp [hbusy]
  refine ⟨g, _, hmask, (runTrace_cons htick _).trans ((runTrace_cons hexec _).trans hrun), ?frames, ?commits,
    ?commitsLast, hfault, rfl, rfl, rfl, rfl, rfl, rfl⟩
  case frames =>
    rw [refreshEvents, pollFrames_cons htick, renderEvents_full, pollFrames_cons hexec, setPend_selMap, setPend_slot,
      hframes]
    simp [startedFrame, hpoll]
  case commits =>
    rw [refreshEvents, countTrace_cons htick, renderEvents_full, countTrace_cons hexec, hcommit]
    simpa using hcommits
  case commitsLast =>
    rw [renderEvents_full_take, countTrace_cons htick, countTrace_cons hexec, hcommit]
    simpa using hbefore

/-! ### FRAMECYCLE -/

/-- Settles O51: four times REFRESH (`exists_refreshes`), each from the slot after the one before. -/
theorem frameCycleRendersFourSlots : Obligations.FrameCycleRendersFourSlots := by
  intro m t v s hfault hbusy hlegal
  obtain ⟨g₀, u₁, r₀⟩ := exists_refreshes m t v s hfault hbusy hlegal
  obtain ⟨g₁, u₂, r₁⟩ := exists_refreshes m t v u₁ r₀.fault r₀.busy hlegal
  obtain ⟨g₂, u₃, r₂⟩ := exists_refreshes m t v u₂ r₁.fault r₁.busy hlegal
  obtain ⟨g₃, u₄, r₃⟩ := exists_refreshes m t v u₃ r₂.fault r₂.busy hlegal
  have hseg : u₁.segMap = s.segMap ∧ u₂.segMap = s.segMap ∧ u₃.segMap = s.segMap := by
    simp [r₂.segMap, r₁.segMap, r₀.segMap]
  have hsel : u₁.selMap = s.selMap ∧ u₂.selMap = s.selMap ∧ u₃.selMap = s.selMap := by
    simp [r₂.selMap, r₁.selMap, r₀.selMap]
  have hslot₁ : u₁.slot = s.slot + 1 := r₀.slot
  have hslot₂ : u₂.slot = s.slot + 2 := by rw [r₁.slot, hslot₁, BitVec.add_assoc]; rfl
  have hslot₃ : u₃.slot = s.slot + 3 := by rw [r₂.slot, hslot₂, BitVec.add_assoc]; rfl
  have hslot₄ : u₄.slot = s.slot := by rw [r₃.slot, hslot₃, BitVec.add_assoc]; exact BitVec.add_zero _
  refine ⟨g₀, g₁, g₂, g₃, u₄, r₀.mask, ?mask₁, ?mask₂, ?mask₃, ?frames, ?commits, ?run, hslot₄, ?out, r₃.pend, r₃.busy⟩
  case mask₁ => rw [← hseg.1, ← hslot₁]; exact r₁.mask
  case mask₂ => rw [← hseg.2.1, ← hslot₂]; exact r₂.mask
  case mask₃ => rw [← hseg.2.2, ← hslot₃]; exact r₃.mask
  case frames =>
    simp only [frameCycleEvents, pollFrames_append, runTrace_append, r₀.run, r₁.run, r₂.run, r₀.frames, r₁.frames,
      r₂.frames, r₃.frames, hslot₁, hslot₂, hslot₃, hsel, List.cons_append, List.nil_append]
  case commits =>
    simp only [frameCycleEvents, countTrace_append, runTrace_append, r₀.run, r₁.run, r₂.run, r₀.commits, r₁.commits,
      r₂.commits, r₃.commits]
  case run => simp only [frameCycleEvents, runTrace_append, r₀.run, r₁.run, r₂.run, r₃.run]
  case out => rw [r₃.out, hslot₃, hsel.2.2]

/-! ### After RESET -/

/-- RESET and any STEPs after it lead to an idle state of slot 0, without a frame on the way (R77, R120). -/
theorem exists_idle_after_reset (x : List Instr) (s : State) (hx : x.all isStep = true) :
    ∃ r : State, runTrace (.reset :: x) s = .next r ∧ pollFrames (.reset :: x) s = [] ∧
      countTrace isCommit (.reset :: x) s = 0 ∧
      r.fault = .none ∧ r.busy = false ∧ r.slot = 0 ∧ r.segMap = s.segMap ∧ r.selMap = s.selMap := by
  have hreset := resetEventSetsBlockRegisters s
  refine ⟨_, (runTrace_cons hreset x).trans (runTrace_idle x _ hx rfl rfl rfl), ?frames, ?commits,
    rfl, rfl, rfl, rfl, rfl⟩
  case frames => rw [pollFrames_cons hreset, pollFrames_of_steps x _ hx rfl]; rfl
  case commits => rw [countTrace_cons hreset, countTrace_isCommit_of_steps x _ hx rfl rfl]; rfl

/-- Settles O55: RESET and the STEPs before the first TICK lead to an idle state of slot 0 (`exists_idle_after_reset`),
and then the TICK and RENDER are one REFRESH (`exists_refreshes`). -/
theorem firstRenderAfterResetIsSlotZero : Obligations.FirstRenderAfterResetIsSlotZero := by
  intro x m t v s hx hlegal
  obtain ⟨r, hrun, hframes, hcommits, hfault, hbusy, hslot, hseg, hsel⟩ := exists_idle_after_reset x s hx
  obtain ⟨g, u, hu⟩ := exists_refreshes m t v r hfault hbusy hlegal
  refine ⟨g, u, ?mask, ?frames, ?before, ?commits, ?run, ?out⟩
  case mask => rw [← hseg, ← hslot]; exact hu.mask
  case frames =>
    rw [pollFrames_append, hframes, hrun, ← hsel, ← hslot]
    exact hu.frames
  case before =>
    rw [countTrace_append, hcommits, hrun, Nat.zero_add]
    exact hu.commitsLast
  case commits =>
    rw [countTrace_append, hcommits, hrun, Nat.zero_add]
    exact hu.commits
  case run =>
    rw [runTrace_append, hrun]
    exact hu.run
  case out => rw [hu.out, hslot, hsel]

end Sys2Proof.Machine
end

section
/-! SUPPORT. The statements on fair runs: started frames are committed, pending refreshes are polled, and the display
cycles through all positions or idles (70_reset_and_hazards.md R130). -/

namespace Sys2Proof.Machine

/-! ### Enough STEPs commit a started frame and poll a pending refresh -/

/-- A list with at least `n` elements of a kind has a first part with exactly `n`. -/
theorem exists_split_countP {α : Type} (p : α → Bool) (xs : List α) (n : Nat) (h : n ≤ xs.countP p) :
    ∃ ys zs : List α, xs = ys ++ zs ∧ ys.countP p = n := by
  induction xs generalizing n with
  | nil => exact ⟨[], [], rfl, (Nat.le_zero.mp h).symm⟩
  | cons x xs ih =>
    rcases n with _ | n
    · exact ⟨[], x :: xs, rfl, rfl⟩
    · rcases hx : p x with _ | _
      · obtain ⟨ys, zs, rfl, hcount⟩ := ih (n + 1) (by simpa [hx] using h)
        exact ⟨x :: ys, zs, rfl, by simp [hx, hcount]⟩
      · obtain ⟨ys, zs, rfl, hcount⟩ := ih n (by simpa [hx] using h)
        exact ⟨x :: ys, zs, rfl, by simp [hx, hcount]⟩

@[simp] theorem committed_slot (s : State) (p : Bool) : (committed s p).slot = s.slot + 1 := by
  rw [committed, writeLines_frame]
  rfl

@[simp] theorem committed_fault (s : State) (p : Bool) : (committed s p).fault = s.fault := by
  rw [committed, writeLines_frame]
  rfl

@[simp] theorem committed_busy (s : State) (p : Bool) : (committed s p).busy = false := rfl
@[simp] theorem committed_pend (s : State) (p : Bool) : (committed s p).pend = p := rfl

/-- A trace with the STEPs that a started frame still takes commits it: `SLOT` counts it (`slot_runTrace`). -/
theorem one_le_commits_of_busy (is : List Instr) (s : State) (hfault : s.fault = .none) (hbusy : s.busy = true)
    (hph : s.ph.toNat ≤ 49) (hall : is.all isStepOrTick = true) (hsteps : 50 ≤ is.countP isStep) :
    1 ≤ countTrace isCommit is s := by
  obtain ⟨xs, ys, rfl, hcount⟩ := exists_split_countP isStep is (50 - s.ph.toNat) (by omega)
  obtain ⟨hxs, -⟩ : xs.all isStepOrTick = true ∧ ys.all isStepOrTick = true := by
    simpa only [List.all_append, Bool.and_eq_true] using hall
  have hrun := runTrace_to_commit xs s hfault hbusy hph hxs (by omega)
  have hslot := slot_runTrace xs s _ hxs hrun
  rw [committed_slot, slot_succ] at hslot
  rw [countTrace_append]
  omega

/-- A STEP polls a pending refresh when the block is neither faulted nor busy, also after ticks. -/
theorem one_le_polls_of_idle (is : List Instr) (s : State) (hfault : s.fault = .none) (hbusy : s.busy = false)
    (hpend : s.pend = true) (hall : is.all isStepOrTick = true) (hsteps : 1 ≤ is.countP isStep) :
    1 ≤ countTrace isPoll is s := by
  induction is generalizing s with
  | nil => simp at hsteps
  | cons i is ih =>
    obtain ⟨hi, hrest⟩ : isStepOrTick i = true ∧ is.all isStepOrTick = true := by simpa using hall
    obtain ⟨m, t, v, rfl⟩ | rfl := isStepOrTick_cases hi
    · have hpoll : isPoll (.step m t v) s = true := (isPoll_iff _ s).mpr ⟨rfl, hfault, hbusy, hpend⟩
      rw [countTrace, hpoll, if_pos rfl]
      exact Nat.le_add_right 1 _
    · rw [countTrace_cons (exec_tick s)]
      exact (ih (setPend s) hfault hbusy rfl hrest (by simpa using hsteps)).trans (Nat.le_add_left _ _)

/-- A trace with 51 STEPs polls a pending refresh: at most 50 of them end the frame before it. -/
theorem one_le_polls_of_pend (is : List Instr) (s : State) (hfault : s.fault = .none)
    (hph : s.busy = true → s.ph.toNat ≤ 49) (hpend : s.pend = true) (hall : is.all isStepOrTick = true)
    (hsteps : 51 ≤ is.countP isStep) : 1 ≤ countTrace isPoll is s := by
  cases hbusy : s.busy with
  | false => exact one_le_polls_of_idle is s hfault hbusy hpend hall (by omega)
  | true =>
    obtain ⟨xs, ys, rfl, hcount⟩ := exists_split_countP isStep is (50 - s.ph.toNat) (by omega)
    obtain ⟨hxs, hys⟩ : xs.all isStepOrTick = true ∧ ys.all isStepOrTick = true := by
      simpa only [List.all_append, Bool.and_eq_true] using hall
    have hphase := hph hbusy
    have hrun := runTrace_to_commit xs s hfault hbusy hphase hxs (by omega)
    rw [List.countP_append] at hsteps
    have hpolls := one_le_polls_of_idle ys (committed s (s.pend || xs.any isTick)) (by simpa using hfault) rfl
      (by simp [hpend]) hys (by omega)
    rw [countTrace_append, hrun]
    exact hpolls.trans (Nat.le_add_left _ _)

/-! ### Fair runs -/

/-- An event that is no RESET is a STEP or a TICK. -/
theorem isStepOrTick_of_isEvent {i : Instr} (hevent : isEvent i = true) (hne : i ≠ .reset) : isStepOrTick i = true := by
  cases i with
  | step m t v => rfl
  | tick => rfl
  | reset => exact absurd rfl hne
  | _ => cases hevent

/-- Where every trace with `N` STEPs counts something, a fair run comes to it, unless a RESET comes first. -/
theorem FairRun.exists_first {events : Nat → Instr} {states : Nat → State} (hr : FairRun events states)
    (p : Instr → State → Bool) (n N : Nat)
    (hp : ∀ is : List Instr, is.all isStepOrTick = true → N ≤ is.countP isStep → 1 ≤ countTrace p is (states n)) :
    ∃ k : Nat, FirstFrom (fun j => p (events j) (states j) = true ∨ events j = .reset) n k := by
  suffices hsome : ∃ j : Nat, n ≤ j ∧ (p (events j) (states j) = true ∨ events j = .reset) by
    obtain ⟨j, hj, hat⟩ := hsome
    obtain ⟨k, hfirst, -⟩ := exists_firstFrom (fun j => p (events j) (states j) = true ∨ events j = .reset) n j hj hat
    exact ⟨k, hfirst⟩
  by_cases hreset : ∃ j : Nat, n ≤ j ∧ events j = .reset
  · obtain ⟨j, hj, hat⟩ := hreset
    exact ⟨j, hj, .inr hat⟩
  · obtain ⟨k, hsteps⟩ := InfinitelyOften.countP_eventsFrom hr.fair n N
    have hall : (eventsFrom events n k).all isStepOrTick = true := by
      refine List.all_eq_true.mpr fun i hi => ?_
      obtain ⟨j, hj, rfl⟩ := List.mem_map.mp hi
      exact isStepOrTick_of_isEvent (hr.run j).1 fun he => hreset ⟨j, (List.mem_range'_1.mp hj).1, he⟩
    obtain ⟨j, hj, -, hat⟩ := (hr.run.countTrace_eventsFrom p n k).mp (hp _ hall hsteps)
    exact ⟨j, hj, .inl hat⟩

/-- The serializer's invariant, once met in a run, is met from there on. -/
theorem IsRun.serializerInv {events : Nat → Instr} {states : Nat → State} (hr : IsRun events states) {n : Nat}
    (hs : SerializerInv (states n)) {k : Nat} (hk : n ≤ k) : SerializerInv (states k) := by
  induction k, hk using Nat.le_induction with
  | base => exact hs
  | succ k _ ih => exact ih.exec (hr k).1 (hr k).2

/-- Between its start and its commit, or a RESET, a frame is being serialized and stays the same (R21). -/
theorem busy_exec {i : Instr} {s t : State} (hbusy : s.busy = true) (hcommit : ¬ isCommit i s = true) (hne : i ≠ .reset)
    (hevent : isEvent i = true) (h : exec i s = .next t) : t.busy = true ∧ t.frame = s.frame := by
  cases exec_effect h with
  | delivers _ _ hnot => simp [hnot] at hevent
  | commits _ _ _ hfault _ hph => exact absurd ((isCommit_iff _ s).mpr ⟨rfl, hfault, hbusy, hph⟩) hcommit
  | resets => exact absurd rfl hne
  | polls _ _ _ _ _ hidle => simp [hidle] at hbusy
  | _ => exact ⟨hbusy, rfl⟩

/-- From a busy state on, the frame stays the same up to the first commit or RESET. -/
theorem IsRun.frame_until {events : Nat → Instr} {states : Nat → State} (hr : IsRun events states) {n k : Nat}
    (hbusy : (states n).busy = true) (hk : n ≤ k)
    (hnone : ∀ j : Nat, n ≤ j → j < k → ¬(isCommit (events j) (states j) = true ∨ events j = .reset)) :
    (states k).busy = true ∧ (states k).frame = (states n).frame := by
  induction k, hk using Nat.le_induction with
  | base => exact ⟨hbusy, rfl⟩
  | succ k hk ih =>
    obtain ⟨hb, hframe⟩ := ih fun j h1 h2 => hnone j h1 (by omega)
    obtain ⟨hcommit, hne⟩ := not_or.mp (hnone k hk (by omega))
    obtain ⟨hb', hframe'⟩ := busy_exec hb hcommit hne (hr k).1 (hr k).2
    exact ⟨hb', hframe'.trans hframe⟩

/-- Settles O54: the bounds are `one_le_commits_of_busy` and `one_le_polls_of_pend`; a fair run has enough STEPs
(`FairRun.exists_first`), and the frame that it commits is the one that was started (`IsRun.frame_until`). -/
theorem pendingRefreshIsPolled : Obligations.PendingRefreshIsPolled := by
  refine ⟨fun is s hfault hph hall => ⟨fun hbusy => one_le_commits_of_busy is s hfault hbusy (hph hbusy) hall,
    fun hpend => one_le_polls_of_pend is s hfault hph hpend hall⟩, fun events states n hr hfault hs => ⟨?commit, ?poll⟩⟩
  case commit =>
    intro hbusy
    obtain ⟨k, hfirst⟩ := hr.exists_first isCommit n 50 fun is =>
      one_le_commits_of_busy is _ hfault hbusy (hs.phase hbusy)
    obtain ⟨hk, hat, hnone⟩ := hfirst
    refine ⟨k, ⟨hk, hat, hnone⟩, fun hne => ?_⟩
    rw [(hr.run.serializerInv hs hk).out_of_isCommit (hat.resolve_right hne) (hr.run k).2]
    exact (hr.run.frame_until hbusy hk hnone).2
  case poll =>
    intro hpend
    exact hr.exists_first isPoll n 51 fun is => one_le_polls_of_pend is _ hfault hs.phase hpend

/-! ### Fair runs without a fault or a RESET -/

/-- A fair run that meets the invariant and has no fault and no RESET. -/
structure CleanRun (events : Nat → Instr) (states : Nat → State) : Prop where
  fair : FairRun events states
  inv : ∀ n : Nat, Inv (states n)
  noReset : ∀ n : Nat, events n ≠ .reset
  noFault : ∀ n : Nat, (states n).fault = .none

/-- The invariant at the start of a run holds throughout. -/
theorem IsRun.inv {events : Nat → Instr} {states : Nat → State} (hr : IsRun events states) (hs : Inv (states 0))
    (n : Nat) : Inv (states n) := by
  induction n with
  | zero => exact hs
  | succ n ih => exact ih.exec (hr n).1 (hr n).2

/-- No event of a run writes `SEL_MAP` (R27). -/
theorem IsRun.selMap {events : Nat → Instr} {states : Nat → State} (hr : IsRun events states) (n : Nat) :
    (states n).selMap = (states 0).selMap := by
  induction n with
  | zero => rfl
  | succ n ih => exact (exec_tables _ _ _ (hr n).2).2.trans ih

/-- A poll clears `PEND`, and without a fault it starts a frame (R76). -/
theorem after_poll {i : Instr} {s t : State} (hpoll : isPoll i s = true) (h : exec i s = .next t)
    (hfault : t.fault = .none) : t.pend = false ∧ t.busy = true := by
  obtain ⟨hstep, hf, hbusy, hpend⟩ := (isPoll_iff i s).mp hpoll
  refine ⟨((pendIsSetByTickAndClearedByPollOrReset i s t h).2 hpend).mpr (.inr hpoll), ?_⟩
  cases i with
  | step m a v =>
    rw [exec_step_of_pend m a v s hf hbusy hpend] at h
    obtain rfl := Host.Outcome.next.inj h
    rcases compose_cases s.segMap m s.slot a.toNat v.toNat with ⟨-, g, hmask⟩ | ⟨-, hraise⟩
    · rw [stepPoll_of_mask m a v s g hmask]
    · rw [stepPoll_of_raises m a v s _ hf hraise] at hfault
      cases m <;> cases hfault
  | _ => cases hstep

section
variable {events : Nat → Instr} {states : Nat → State}

/-- A started frame is committed. -/
theorem CleanRun.exists_commit_of_busy (h : CleanRun events states) (n : Nat) (hbusy : (states n).busy = true) :
    ∃ k : Nat, n ≤ k ∧ isCommit (events k) (states k) = true := by
  obtain ⟨hcommit, -⟩ := pendingRefreshIsPolled.2 events states n h.fair (h.noFault n) (h.inv n).serializer
  obtain ⟨k, ⟨hk, hat, -⟩, -⟩ := hcommit hbusy
  exact ⟨k, hk, hat.resolve_right (h.noReset k)⟩

/-- A pending refresh is polled. -/
theorem CleanRun.exists_poll_of_pend (h : CleanRun events states) (n : Nat) (hpend : (states n).pend = true) :
    ∃ k : Nat, n ≤ k ∧ isPoll (events k) (states k) = true := by
  obtain ⟨-, hpoll⟩ := pendingRefreshIsPolled.2 events states n h.fair (h.noFault n) (h.inv n).serializer
  obtain ⟨k, hk, hat, -⟩ := hpoll hpend
  exact ⟨k, hk, hat.resolve_right (h.noReset k)⟩

/-! ### With recurring ticks -/

/-- From every point on a frame is committed: the one being serialized, or else the one that the next tick's refresh
starts. -/
theorem CleanRun.exists_commit (h : CleanRun events states) (hticks : TicksRecur events) (n : Nat) :
    ∃ k : Nat, n ≤ k ∧ isCommit (events k) (states k) = true := by
  obtain ⟨j, hj, htick⟩ := hticks n
  have hpend : (states (j + 1)).pend = true := by
    have hexec := (h.fair.run j).2
    rw [htick, exec_tick] at hexec
    rw [← Host.Outcome.next.inj hexec]
    rfl
  obtain ⟨i, hi, hpoll⟩ := h.exists_poll_of_pend (j + 1) hpend
  obtain ⟨-, hbusy⟩ := after_poll hpoll (h.fair.run i).2 (h.noFault (i + 1))
  obtain ⟨k, hk, hcommit⟩ := h.exists_commit_of_busy (i + 1) hbusy
  exact ⟨k, by omega, hcommit⟩

/-- Until the next commit `SLOT` stays. -/
theorem CleanRun.slot_until (h : CleanRun events states) {n k : Nat} (hk : n ≤ k)
    (hnone : ∀ j : Nat, n ≤ j → j < k → ¬ isCommit (events j) (states j) = true) :
    (states k).slot = (states n).slot := by
  induction k, hk using Nat.le_induction with
  | base => rfl
  | succ k hk ih =>
    rw [slotAdvancesOnlyAtCommit _ _ _ (h.fair.run k).2 (h.noReset k), if_neg (hnone k hk (by omega))]
    exact ih fun j h1 h2 => hnone j h1 (by omega)

/-- The next commit from a point on is that of the slot at that point. -/
theorem CleanRun.exists_commit_of_current_slot (h : CleanRun events states) (hticks : TicksRecur events) (n : Nat) :
    ∃ k : Nat, n ≤ k ∧ isCommit (events k) (states k) = true ∧ (states k).slot = (states n).slot := by
  obtain ⟨j, hj, hcommit⟩ := h.exists_commit hticks n
  obtain ⟨k, ⟨hk, hfirst, hnone⟩, -⟩ :=
    exists_firstFrom (fun k => isCommit (events k) (states k) = true) n j hj hcommit
  exact ⟨k, hk, hfirst, h.slot_until hk hnone⟩

/-- The slot that is `d` places ahead is committed, after `d` other commits. -/
theorem CleanRun.exists_commit_of_slot (h : CleanRun events states) (hticks : TicksRecur events) (d n : Nat) :
    ∃ k : Nat, n ≤ k ∧ isCommit (events k) (states k) = true ∧
      (states k).slot = (states n).slot + BitVec.ofNat 2 d := by
  induction d generalizing n with
  | zero =>
    obtain ⟨k, hk, hcommit, hslot⟩ := h.exists_commit_of_current_slot hticks n
    exact ⟨k, hk, hcommit, hslot.trans (BitVec.add_zero _).symm⟩
  | succ d ih =>
    obtain ⟨i, hi, hcommit, hcurrent⟩ := h.exists_commit_of_current_slot hticks n
    obtain ⟨k, hk, hlater, hslot⟩ := ih (i + 1)
    refine ⟨k, by omega, hlater, ?_⟩
    rw [hslot, slotAdvancesOnlyAtCommit _ _ _ (h.fair.run i).2 (h.noReset i), if_pos hcommit, hcurrent,
      BitVec.add_assoc, Nat.add_comm d 1, BitVec.ofNat_add]
    rfl

/-- Every position is committed from every point on. -/
theorem CleanRun.exists_commit_at (h : CleanRun events states) (hticks : TicksRecur events) (p : BitVec 2) (n : Nat) :
    ∃ k : Nat, n ≤ k ∧ isCommit (events k) (states k) = true ∧ (states k).slot = p := by
  obtain ⟨k, hk, hcommit, hslot⟩ := h.exists_commit_of_slot hticks (p - (states n).slot).toNat n
  refine ⟨k, hk, hcommit, ?_⟩
  rw [hslot, BitVec.ofNat_toNat, BitVec.setWidth_eq, BitVec.add_comm, BitVec.sub_add_cancel]

/-! ### Without ticks -/

/-- Without ticks every event is a STEP. -/
theorem CleanRun.isStep_of_no_tick (h : CleanRun events states) (hnone : ∀ n : Nat, events n ≠ .tick) (n : Nat) :
    ∃ (m : Mode) (t : BitVec 13) (v : BitVec 14), events n = .step m t v :=
  (isStepOrTick_cases (isStepOrTick_of_isEvent (h.fair.run n).1 (h.noReset n))).resolve_right (hnone n)

/-- Without ticks `PEND`, once 0, stays 0 (R105). -/
theorem CleanRun.pend_stays_false (h : CleanRun events states) (hnone : ∀ n : Nat, events n ≠ .tick) {n k : Nat}
    (hpend : (states n).pend = false) (hk : n ≤ k) : (states k).pend = false := by
  induction k, hk using Nat.le_induction with
  | base => exact hpend
  | succ k _ ih =>
    obtain ⟨hset, -⟩ := pendIsSetByTickAndClearedByPollOrReset _ _ _ (h.fair.run k).2
    exact Bool.eq_false_iff.mpr fun htrue => hnone k (hset ih htrue)

/-- Without ticks the last pending refresh is polled at some point. -/
theorem CleanRun.exists_pend_false (h : CleanRun events states) : ∃ n : Nat, (states n).pend = false := by
  cases hpend : (states 0).pend with
  | false => exact ⟨0, hpend⟩
  | true =>
    obtain ⟨k, -, hpoll⟩ := h.exists_poll_of_pend 0 hpend
    exact ⟨k + 1, (after_poll hpoll (h.fair.run k).2 (h.noFault (k + 1))).1⟩

/-- Without ticks the last started frame is committed too, and the block is idle. -/
theorem CleanRun.exists_idle (h : CleanRun events states) (hnone : ∀ n : Nat, events n ≠ .tick) :
    ∃ n : Nat, (states n).busy = false ∧ (states n).pend = false := by
  obtain ⟨n, hpend⟩ := h.exists_pend_false
  cases hbusy : (states n).busy with
  | false => exact ⟨n, hbusy, hpend⟩
  | true =>
    obtain ⟨k, hk, hcommit⟩ := h.exists_commit_of_busy n hbusy
    refine ⟨k + 1, ?_, h.pend_stays_false hnone hpend (by omega)⟩
    rw [exec_of_isCommit hcommit (h.fair.run k).2]
    rfl

/-- Without ticks an idle block stays as it is (R77). -/
theorem CleanRun.stays_idle (h : CleanRun events states) (hnone : ∀ n : Nat, events n ≠ .tick) {n k : Nat}
    (hbusy : (states n).busy = false) (hpend : (states n).pend = false) (hk : n ≤ k) : states k = states n := by
  induction k, hk using Nat.le_induction with
  | base => rfl
  | succ k _ ih =>
    obtain ⟨m, t, v, hstep⟩ := h.isStep_of_no_tick hnone k
    have hexec := (h.fair.run k).2
    rw [hstep, ih, idleStepKeepsState m t v _ (h.noFault n) hbusy hpend] at hexec
    exact (Host.Outcome.next.inj hexec).symm

end

/-- Settles O60: with recurring ticks every position is committed again (`CleanRun.exists_commit_at`) and the commit
shows its select mask; without ticks the block comes to idle (`CleanRun.exists_idle`) and stays there. -/
theorem fairRunsCycleThroughPositions : Obligations.FairRunsCycleThroughPositions := by
  intro events states hr hs hclean
  have h : CleanRun events states := ⟨hr, hr.run.inv hs, fun n => (hclean n).1, fun n => (hclean n).2⟩
  refine ⟨fun hticks p n => ?cycles, fun hnone => ?idles⟩
  case cycles =>
    obtain ⟨k, hk, hcommit, rfl⟩ := h.exists_commit_at hticks p n
    refine ⟨k, hk, hcommit, rfl, ?_⟩
    rw [(h.inv k).select_of_isCommit hcommit (hr.run k).2, hr.run.selMap k]
  case idles =>
    obtain ⟨n, hbusy, hpend⟩ := h.exists_idle hnone
    refine ⟨n, fun k hk => ?_⟩
    have hsame : states k = states n := h.stays_idle hnone hbusy hpend hk
    exact ⟨(stepArm_eq_idle_iff _).mpr (by rw [hsame]; exact ⟨h.noFault n, hbusy, hpend⟩), hsame⟩

end Sys2Proof.Machine
end

section
/-! SUPPORT. The statement on what `OUT` lights (60_exceptions.md R108) and the host's millivolts (44_host_sources.md
R93). -/

namespace Sys2Proof.Machine

/-! ### The display -/

/-- A position whose select mask has one 0 bit is lit exactly when that line is 0 (R10, R108). -/
theorem positionLit_of_isOnlyZero (sel : Config.SelMap) (out : BitVec 16) (p : BitVec 2) (z : Nat)
    (hz : IsOnlyZero (readSelMap sel p) z) : positionLit sel out p = !out.getLsbD z := by
  obtain ⟨hlt, hzero⟩ := hz
  rw [Bool.eq_iff_iff, positionLit_iff, Bool.not_eq_true']
  constructor
  · rintro ⟨k, hk, hentry, hout⟩
    rwa [← (hzero k hk).mp hentry]
  · exact fun hout => ⟨z, hlt, (hzero z hlt).mpr rfl, hout⟩

/-- The default table's entry of position `p` has its only 0 bit at place `p` (R17, D4). -/
theorem isOnlyZero_defaultSelMap (p : BitVec 2) : IsOnlyZero (readSelMap defaultSelMap p) p.toNat := by
  refine ⟨p.isLt.trans (by decide), ?_⟩
  revert p
  decide

/-- With a table that R19 allows, a frame of slot `p` lights position `p` and no other: two positions whose only 0 bits
stand in one place are the same (R61). -/
theorem positionLit_mkFrame_iff (sel : Config.SelMap) (hsel : Config.checkSelMap sel = true) (g : Byte)
    (p q : BitVec 2) : positionLit sel (mkFrame g (readSelMap sel p)) q = true ↔ q = p := by
  obtain ⟨z, hinj, hz⟩ := (digselGivesOneHotEntry sel).2 hsel
  obtain ⟨hlt, -⟩ := hz q
  rw [positionLit_of_isOnlyZero sel _ q (z q) (hz q), mkFrame_low _ _ _ hlt, Bool.not_eq_true', (hz p).2 (z q) hlt]
  exact ⟨hinj q p, congrArg z⟩

/-- Settles O56: `positionLit_of_isOnlyZero` for the default table, `positionLit_mkFrame_iff` for every allowed one; a
segment's line is its bit of the segment mask (`mkFrame_high`). -/
theorem committedFrameLightsOnePosition : Obligations.CommittedFrameLightsOnePosition := by
  refine ⟨fun out p => ⟨positionLit_of_isOnlyZero _ out p _ (isOnlyZero_defaultSelMap p), fun _ => rfl, rfl⟩,
    fun sel g p q x hsel => ⟨positionLit_mkFrame_iff sel hsel g p q, ?_⟩⟩
  have hposition : positionLit sel (mkFrame g (readSelMap sel p)) q = decide (q = p) := by
    rw [Bool.eq_iff_iff, decide_eq_true_iff, positionLit_mkFrame_iff sel hsel]
  rw [segmentLit, hposition, mkFrame_high]

/-! ### The host's millivolts -/

/-- For a fraction that is not negative, truncation is the division of naturals (R93). -/
theorem mvOfFraction_natCast (k d : Nat) : mvOfFraction k d = min 9999 (k * 3300 / d) := by
  have htrunc : ((k : Int) * 3300).tdiv d = ((k * 3300 / d : Nat) : Int) := by
    rw [Int.ofNat_tdiv, Int.natCast_mul]
    rfl
  rw [mvOfFraction, htrunc, max_eq_right (Int.natCast_nonneg _), Int.toNat_natCast]

/-- A negative fraction is clamped to 0 (R93). -/
theorem mvOfFraction_neg (n : Int) (d : Nat) (hn : n < 0) : mvOfFraction n d = 0 := by
  have hneg : 0 ≤ (-(n * 3300)).tdiv d := Int.tdiv_nonneg (by omega) (Int.natCast_nonneg d)
  have htrunc : (n * 3300).tdiv d ≤ 0 := by
    rw [Int.neg_tdiv] at hneg
    omega
  rw [mvOfFraction, max_eq_left htrunc]
  rfl

/-- Settles O59: `mvOfFraction_natCast` and `mvOfFraction_neg`; a fraction up to 1 gives at most 3300, below the upper
clamp. -/
theorem hostMillivoltsAreClamped : Obligations.HostMillivoltsAreClamped := by
  intro n d hd
  refine ⟨?unit, ?clamped, mvOfFraction_neg n d, min_le_left _ _⟩
  case unit =>
    rintro k rfl hk
    have hle : k * 3300 / d ≤ 3300 := Nat.div_le_of_le_mul (Nat.mul_le_mul_right 3300 hk)
    rw [mvOfFraction_natCast, min_eq_right (hle.trans (by decide))]
    exact ⟨rfl, hle⟩
  case clamped =>
    rintro k rfl
    exact mvOfFraction_natCast k d

end Sys2Proof.Machine
end
